-- ==== Sys2Proof/Word.lean ====
section
/-! DEFINITION. The word types of the block (00_scope.md R9): every frame byte, register address, register value, rate
index and gain index is 8 bits, a conversion code travels as 24 bits and is returned as a signed 32-bit integer, a voltage
is a binary64 pattern. A channel index is a number (Nat): the width in which a host request carries it is the parameter
`CH_W` (R8). -/

namespace Sys2Proof

/-- A frame byte (R9). -/
abbrev Byte := BitVec 8

/-- A four-bit field of a chip frame byte (R82, R89). -/
abbrev Nibble := BitVec 4

/-- A received 24-bit conversion code, before sign extension (R9, R106). -/
abbrev Code24 := BitVec 24

/-- An `i32` code (R9). -/
abbrev Code32 := BitVec 32

/-- The 64-bit pattern of a binary64 value (R9, R14). -/
abbrev F64 := BitVec 64

end Sys2Proof
end

