-- ==== Sys2Proof/Config.lean ====
section
/-! DEFINITION. The parameters of 00_scope.md R8, the shapes of the environment's answers (R11, R15), and the free
values: constants without a body, of which no proof can know the value. -/

namespace Sys2Proof

/-- A line level; `high` is the logical `true` of `set_level(bool)` (R15). -/
inductive Level where
  | low
  | high
  deriving DecidableEq, Repr, Inhabited

/-- The named durations of R8. They stay names: no rule depends on a value of theirs (R254), and a `Sleep` is recorded
under its name (log entry 6). -/
inductive Duration where
  | tRst
  | tPwrup
  | tPoll
  | tSync
  | tRdata
  deriving DecidableEq, Repr, Inhabited

/-- What the environment answers to `SetCS` or `SetRST` (R15, R44). -/
inductive LineAnswer where
  | ok
  | gpioError
  deriving DecidableEq, Repr, Inhabited

/-- What the environment answers to `ReadDRDY` (R15, R44). -/
inductive DrdyAnswer where
  | level (l : Level)
  | gpioError
  deriving DecidableEq, Repr, Inhabited

/-- What the environment answers to a `Transfer` (R15, R44): the received bytes, or `TransportError`. A transfer of `n`
bytes receives the first `n` of the three (R81: the block's transfers are 1 or 3 bytes long; R67: as many received as
sent). -/
inductive XferAnswer where
  | rx (b0 b1 b2 : Byte)
  | transportError
  deriving DecidableEq, Repr, Inhabited

/-- How far one turn of an agent goes: `event`, one port event (R40); `whole`, a whole host operation, as one host
thread that drives the instances in round robin sees it (R167, R68). -/
inductive Grain where
  | whole
  | event
  deriving DecidableEq, Repr, Inhabited

/-- Which agent moves next (R10). -/
structure Turn where
  agent : Nat
  grain : Grain
  deriving DecidableEq, Repr, Inhabited

/-- One entry `(name, drate_code, MAX_POLLS)` of the table `RATES` (R93). -/
structure RateEntry where
  name : String
  drate : Byte
  maxPolls : Nat
  deriving DecidableEq, Repr, Inhabited

/-- The parameters of R8 that say how the block speaks to the chip and to the host: `N_AIN`, `CH_COM`, `CH_W`, `REG_MAX`,
`GAINS`, `WAKEUP_BYTE` and `FILL`. The spec gives or decides a value for each (92_eei_decisions.md D2, D4, D5, D13), and a
model takes each as an argument. -/
structure ChipParams where
  /-- `N_AIN`: the single-ended inputs are the channels `0` to `nAin - 1`. -/
  nAin : Nat
  /-- `CH_COM`: the channel index of AINCOM. -/
  chCom : Nat
  /-- `CH_W`: the width in bits of a channel-index operand of a host request. -/
  chW : Nat
  /-- `REG_MAX`: the highest valid chip register address. -/
  regMax : Nat
  /-- `GAINS`: the set of PGA gains, as a list. -/
  gains : List Nat
  /-- `WAKEUP_BYTE`. -/
  wakeupByte : Byte
  /-- `FILL`. -/
  fillByte : Byte
  deriving DecidableEq, Repr, Inhabited

/-- The values of R8. -/
def ChipParams.default : ChipParams :=
  { nAin := 8, chCom := 8, chW := 8, regMax := 0x0A, gains := [1, 2, 4, 8, 16, 32, 64]
    wakeupByte := 0x00#8, fillByte := 0x00#8 }

/-- The parameters of R8 that a rule reads: those of the chip and the host port, `RATES` with its `MAX_POLLS`,
`INIT_POLLS`, `INIT_DRDY_LEVEL`. (`VREF` stands in each device record, R41; `N_INST` is the number of device records; the
durations are names, log entry 6.) -/
structure Params where
  chip : ChipParams
  rates : List RateEntry
  initPolls : Nat
  initDrdyLevel : Level
  deriving DecidableEq, Repr, Inhabited

namespace Config

/-- OPEN: `N_INST - 1`, the device instances beside the first (R8, R227). -/
opaque moreInstances : Nat

/-- OPEN: `MAX_POLLS(k) - 1` of rate index `k` (R8, R93). -/
opaque maxPollsLessOne : Nat → Nat

/-- OPEN: `INIT_POLLS - 1` (R8). -/
opaque initPollsLessOne : Nat

/-- OPEN: a candidate for `VREF` of each device instance (R8, R41); used only where it is finite and above 0. -/
opaque vrefCandidate : Nat → F64

/-- Free: the environment's answer to the `n`-th draw of a device instance when no answer stands in its queue, for a line
write (R11). -/
opaque freeLine : Nat → Nat → LineAnswer

/-- Free: likewise for a data-ready read (R11). -/
opaque freeDrdy : Nat → Nat → DrdyAnswer

/-- Free: likewise for a transfer (R11). -/
opaque freeXfer : Nat → Nat → XferAnswer

/-- Free: who moves in a step for which the state names no turn (R73: the grant order is not fixed). -/
opaque freeTurn : Nat → Turn

/-- `MAX_POLLS` of a rate, at least 1 (R8). -/
def maxPolls (k : Nat) : Nat := maxPollsLessOne k + 1

/-- `INIT_POLLS`, at least 1 (R8). -/
def initPolls : Nat := initPollsLessOne + 1

end Config

end Sys2Proof
end

