-- ==== Sys2Proof/Syntax.lean ====
section
/-! DEFINITION. The instructions: one constructor per row of spec/opcode_table.json. The first six are the chip command
frames the block sends (30_encoding.md R82 to R87), the next ten the host operations (R100), the last two the host
pseudo-operations (R105). -/

namespace Sys2Proof

/-- The two encoding layers (R80). -/
inductive Layer where
  | chip
  | host
  deriving DecidableEq, Repr

inductive Instr where
  /-- WREG: write chip register `r` with `v` (R84). -/
  | wreg (r : Nibble) (v : Byte)
  /-- MUXSEL: the write of the MUX register that selects channels `p`, `n` (R85). -/
  | muxsel (p n : Nibble)
  /-- SYNC (R86). -/
  | sync
  /-- WAKEUP (R86). -/
  | wakeup
  /-- RDATA (R87). -/
  | rdata
  /-- DATAREAD: three fill bytes that clock in the conversion code (R87, R158). -/
  | dataread
  /-- INIT: `initialize(rate_idx, gain_idx)` (R145). -/
  | init (r g : Byte)
  /-- SETCFG: `set_configuration(rate_idx, gain_idx)` (R151). -/
  | setcfg (r g : Byte)
  /-- READ: `read_channel(pos, neg)` (R155). -/
  | read (p n : Nat)
  /-- VOLTS: the instance form of `code_to_volts` (R192). -/
  | volts (c : Code32)
  /-- SCALE: the pure form of `code_to_volts` (R190). -/
  | scale (c : Code32) (g : Byte) (vref : F64)
  /-- ENCWREG: `encode_write_register` (R120). -/
  | encwreg (r v : Byte)
  /-- ENCMUX: `encode_select_channel` (R121). -/
  | encmux (p n : Nat)
  /-- DECODE: `decode_conversion_code` (R122). -/
  | decode (b0 b1 b2 : Byte)
  /-- ENCSYNCWAKE: `encode_sync_and_wakeup` (R123). -/
  | encsyncwake
  /-- ENCRDATA: `encode_read_data_command` (R124). -/
  | encrdata
  /-- READSE: `READ ch, AINCOM` (R105). -/
  | readse (p : Nat)
  /-- MUXSE: `ENCMUX ch, AINCOM` (R105). -/
  | muxse (p : Nat)
  deriving DecidableEq, Repr

/-- The layer an instruction's words belong to (R80). -/
def Instr.layer : Instr → Layer
  | .wreg _ _ => .chip
  | .muxsel _ _ => .chip
  | .sync => .chip
  | .wakeup => .chip
  | .rdata => .chip
  | .dataread => .chip
  | .init _ _ => .host
  | .setcfg _ _ => .host
  | .read _ _ => .host
  | .volts _ => .host
  | .scale _ _ _ => .host
  | .encwreg _ _ => .host
  | .encmux _ _ => .host
  | .decode _ _ _ => .host
  | .encsyncwake => .host
  | .encrdata => .host
  | .readse _ => .host
  | .muxse _ => .host

end Sys2Proof
end

