-- ==== Sys2Proof/Decode.lean ====
section
/-! DEFINITION. The encodings of 30_encoding.md: the constants of both layers, byte order and field assembly, the decoder
of each layer (total on every list of bytes, rejecting by name) and after it the encoder, written from the same tables.
Then the host's view of an opcode-table word. -/

namespace Sys2Proof

/-! ### Constants -/

/-- The 4-bit WREG opcode in its byte position (R82). -/
def wregOpcode : Byte := 0x50#8

/-- SYNC (R83). -/
def syncByte : Byte := 0xFC#8

/-- RDATA (R83). -/
def rdataByte : Byte := 0x01#8

/-- The MUX register (R88). -/
def muxReg : Nibble := 1#4

/-- The ADCON register (R88). -/
def adconReg : Nibble := 2#4

/-- The DRATE register (R88). -/
def drateReg : Nibble := 3#4

/-- The default table of sampling rates with their DRATE codes, in rate-index order (R93). -/
def rateCodes : List (String × Byte) :=
  [("30000", 0xF0#8), ("15000", 0xE0#8), ("7500", 0xD0#8), ("3750", 0xC0#8),
   ("2000", 0xB0#8), ("1000", 0xA1#8), ("500", 0x92#8), ("100", 0x82#8),
   ("60", 0x72#8), ("50", 0x63#8), ("30", 0x53#8), ("25", 0x43#8),
   ("15", 0x33#8), ("10", 0x23#8), ("5", 0x13#8), ("2.5", 0x03#8)]

/-- Pairs each rate code with the `MAX_POLLS` of its index. -/
def rateEntries (polls : Nat → Nat) : List RateEntry :=
  rateCodes.mapIdx fun k e => { name := e.1, drate := e.2, maxPolls := polls k }

/-! ### Byte order and field assembly -/

/-- Four bytes, most significant first (R100, R103). -/
def bytesOf32 (c : Code32) : List Byte :=
  [c.extractLsb' 24 8, c.extractLsb' 16 8, c.extractLsb' 8 8, c.extractLsb' 0 8]

/-- The 32-bit value of four bytes, most significant first. -/
def join32 (b0 b1 b2 b3 : Byte) : Code32 := b0 ++ b1 ++ b2 ++ b3

/-- Eight bytes, most significant first (R100, R103). -/
def bytesOf64 (x : F64) : List Byte :=
  [x.extractLsb' 56 8, x.extractLsb' 48 8, x.extractLsb' 40 8, x.extractLsb' 32 8,
   x.extractLsb' 24 8, x.extractLsb' 16 8, x.extractLsb' 8 8, x.extractLsb' 0 8]

/-- The 64-bit value of eight bytes, most significant first. -/
def join64 (b0 b1 b2 b3 b4 b5 b6 b7 : Byte) : F64 :=
  b0 ++ b1 ++ b2 ++ b3 ++ b4 ++ b5 ++ b6 ++ b7

/-- `u24(b0, b1, b2)`: three bytes in reception order, big-endian (R13, R62). -/
def u24 (b0 b1 b2 : Byte) : Code24 := b0 ++ b1 ++ b2

/-- A number as `k` bytes, most significant first (R100). -/
def bytesOfNat : Nat → Nat → List Byte
  | 0, _ => []
  | k + 1, x => BitVec.ofNat 8 (x / 256 ^ k) :: bytesOfNat k x

/-- The number of a list of bytes, most significant first (R100). -/
def joinNat (bytes : List Byte) : Nat := bytes.foldl (fun acc b => 256 * acc + b.toNat) 0

/-- How many bytes of a host request carry a channel operand: `CH_W` bits of it (R8), one byte with the `CH_W` of 8 that
R100 is written for (log entry 4). -/
def ChipParams.channelBytes (cp : ChipParams) : Nat := cp.chW / 8

/-- `((p << 4) | n)[7:0]` (R63, R96, R121). -/
def muxByte (p n : Nat) : Byte := BitVec.ofNat 8 ((p <<< 4) ||| n)

/-- An index that names a channel: one of the `N_AIN` inputs, or AINCOM (R90). -/
def isChannel (cp : ChipParams) (x : Nat) : Bool := decide (x < cp.nAin ∨ x = cp.chCom)

/-- Both nibbles of a byte name channels, so the byte is a mux code (R89, R90). -/
def isMuxCode (cp : ChipParams) (v : Byte) : Bool :=
  isChannel cp (v.extractLsb' 4 4).toNat && isChannel cp (v.extractLsb' 0 4).toNat

/-- The WREG frame `[0x50 | r, 0x00, v]` (R84). -/
def wregFrame (r : Nibble) (v : Byte) : List Byte := [wregOpcode ||| r.setWidth 8, 0x00#8, v]

/-- The multiplexer-select frame `WREG(MUX, (p << 4) | n)` (R85). -/
def muxselFrame (p n : Nibble) : List Byte := wregFrame muxReg (muxByte p.toNat n.toNat)

/-- The SYNC frame (R86). -/
def syncFrame : List Byte := [syncByte]

/-- The WAKEUP frame (R86). -/
def wakeupFrame (cp : ChipParams) : List Byte := [cp.wakeupByte]

/-- The RDATA frame (R87). -/
def rdataFrame : List Byte := [rdataByte]

/-- The fill bytes of the data read (R87). -/
def datareadFrame (cp : ChipParams) : List Byte := [cp.fillByte, cp.fillByte, cp.fillByte]

/-- Parameters with which a frame is told by its first byte (R81: `WAKEUP_BYTE` begins no other frame), every register the
block writes exists and every address fits its nibble (R82, R88), AINCOM is no input and fits its nibble (R89, R90), a
channel operand fills whole bytes of a request (R100), and every gain is a power of two whose PGA code has 3 bits (R91,
R92) (log entry 4). -/
def ChipParams.legal (cp : ChipParams) : Bool :=
  decide (cp.wakeupByte ≠ syncByte) && decide (cp.wakeupByte ≠ rdataByte) &&
  decide (cp.wakeupByte.extractLsb' 4 4 ≠ 5#4) &&
  decide (drateReg.toNat ≤ cp.regMax) && decide (cp.regMax < 16) &&
  decide (cp.nAin ≤ cp.chCom) && decide (cp.chCom < 16) &&
  decide (0 < cp.chW) && decide (cp.chW % 8 = 0) &&
  cp.gains.all fun x => (List.range 8).any fun k => decide (x = 2 ^ k)

/-! ### Decoder -/

/-- Why bytes are no instruction. -/
inductive DecodeError where
  /-- No byte at all. -/
  | empty
  /-- A host request whose op byte is unassigned (R102). -/
  | unassignedOp (op : Byte)
  /-- A host request shorter than its op byte's length (R102). -/
  | shortRequest (op : Byte)
  /-- A host request longer than its op byte's length (log entry 10). -/
  | longRequest (op : Byte)
  /-- A chip frame that begins with a byte the block never sends (R81, R99). -/
  | unknownCommand (b : Byte)
  /-- A chip frame that is not as long as its first byte says (R81). -/
  | frameLength (b : Byte)
  /-- A WREG frame whose register address is above `REG_MAX` (R84, R88). -/
  | registerAddress (r : Nibble)
  /-- A WREG frame whose count byte is not 0 (R82). -/
  | countByte (c : Byte)
  deriving DecidableEq, Repr

/-- A three-byte frame with first byte `0b0101_rrrr` (R82, R84, R85). -/
def decodeWreg (cp : ChipParams) (r : Nibble) (count v : Byte) : Except DecodeError Instr :=
  if count ≠ 0x00#8 then .error (.countByte count)
  else if cp.regMax < r.toNat then .error (.registerAddress r)
  else if r = muxReg ∧ isMuxCode cp v = true then
    .ok (.muxsel (v.extractLsb' 4 4) (v.extractLsb' 0 4))
  else .ok (.wreg r v)

/-- The chip layer: one command frame (R81). One byte is SYNC, WAKEUP or RDATA; three are a WREG frame or the data read,
which its position after RDATA tells from a WAKEUP on the wire and its length tells here. -/
def decodeChip (cp : ChipParams) : List Byte → Except DecodeError Instr
  | [] => .error .empty
  | [b] =>
    if b = syncByte then .ok .sync
    else if b = rdataByte then .ok .rdata
    else if b = cp.wakeupByte then .ok .wakeup
    else if b.extractLsb' 4 4 = 5#4 then .error (.frameLength b)
    else .error (.unknownCommand b)
  | [b, c, v] =>
    if b = cp.fillByte ∧ c = cp.fillByte ∧ v = cp.fillByte then .ok .dataread
    else if b.extractLsb' 4 4 = 5#4 then decodeWreg cp (b.extractLsb' 0 4) c v
    else if b = syncByte ∨ b = cp.wakeupByte ∨ b = rdataByte then .error (.frameLength b)
    else .error (.unknownCommand b)
  | b :: _ => .error (.frameLength b)

/-- The length of a host request, by its op byte; `none` for an unassigned one (R100, R102). -/
def hostLength (cp : ChipParams) (op : Byte) : Option Nat :=
  match op.toNat with
  | 0x01 => some 3
  | 0x02 => some 3
  | 0x03 => some (2 * cp.channelBytes + 1)
  | 0x04 => some 5
  | 0x05 => some 14
  | 0x06 => some 3
  | 0x07 => some (2 * cp.channelBytes + 1)
  | 0x08 => some 4
  | 0x09 => some 1
  | 0x0A => some 1
  | _ => none

/-- The operand bytes of READ and ENCMUX as two channel indices; `none` where they are not as many as two (R100). -/
def splitChannels (cp : ChipParams) (operands : List Byte) : Option (Nat × Nat) :=
  if operands.length = 2 * cp.channelBytes then
    some (joinNat (operands.take cp.channelBytes), joinNat (operands.drop cp.channelBytes))
  else none

/-- The operand bytes of a host request whose op byte and length match (R100, R101); `none` otherwise. -/
def decodeOperands (cp : ChipParams) (op : Nat) (operands : List Byte) : Option Instr :=
  match op, operands with
  | 0x01, [r, g] => some (.init r g)
  | 0x02, [r, g] => some (.setcfg r g)
  | 0x03, channels =>
    (splitChannels cp channels).map fun c => if c.2 = cp.chCom then .readse c.1 else .read c.1 c.2
  | 0x04, [c0, c1, c2, c3] => some (.volts (join32 c0 c1 c2 c3))
  | 0x05, [c0, c1, c2, c3, g, v0, v1, v2, v3, v4, v5, v6, v7] =>
    some (.scale (join32 c0 c1 c2 c3) g (join64 v0 v1 v2 v3 v4 v5 v6 v7))
  | 0x06, [r, v] => some (.encwreg r v)
  | 0x07, channels =>
    (splitChannels cp channels).map fun c => if c.2 = cp.chCom then .muxse c.1 else .encmux c.1 c.2
  | 0x08, [b0, b1, b2] => some (.decode b0 b1 b2)
  | 0x09, [] => some .encsyncwake
  | 0x0A, [] => some .encrdata
  | _, _ => none

/-- The host layer: one request frame (R100, R102). -/
def decodeHost (cp : ChipParams) : List Byte → Except DecodeError Instr
  | [] => .error .empty
  | op :: operands =>
    match decodeOperands cp op.toNat operands with
    | some i => .ok i
    | none =>
      match hostLength cp op with
      | none => .error (.unassignedOp op)
      | some len => if operands.length + 1 < len then .error (.shortRequest op) else .error (.longRequest op)

/-- One frame of a layer. -/
def decodeFrame (cp : ChipParams) (layer : Layer) (bytes : List Byte) : Except DecodeError Instr :=
  match layer with
  | .chip => decodeChip cp bytes
  | .host => decodeHost cp bytes

/-! ### Encoder -/

/-- Two channel operands of a host request (R100). -/
def channelWords (cp : ChipParams) (p n : Nat) : List Byte :=
  bytesOfNat cp.channelBytes p ++ bytesOfNat cp.channelBytes n

/-- The words of an instruction (R84 to R87, R100, R105). -/
def encode (cp : ChipParams) : Instr → List Byte
  | .wreg r v => wregFrame r v
  | .muxsel p n => muxselFrame p n
  | .sync => syncFrame
  | .wakeup => wakeupFrame cp
  | .rdata => rdataFrame
  | .dataread => datareadFrame cp
  | .init r g => [0x01#8, r, g]
  | .setcfg r g => [0x02#8, r, g]
  | .read p n => 0x03#8 :: channelWords cp p n
  | .volts c => 0x04#8 :: bytesOf32 c
  | .scale c g vref => 0x05#8 :: (bytesOf32 c ++ g :: bytesOf64 vref)
  | .encwreg r v => [0x06#8, r, v]
  | .encmux p n => 0x07#8 :: channelWords cp p n
  | .decode b0 b1 b2 => [0x08#8, b0, b1, b2]
  | .encsyncwake => [0x09#8]
  | .encrdata => [0x0A#8]
  | .readse p => 0x03#8 :: channelWords cp p cp.chCom
  | .muxse p => 0x07#8 :: channelWords cp p cp.chCom

/-! ### Words of the opcode table -/

/-- The `n` lowest bytes of `w`, the first the least significant, as the table numbers bits. -/
def wordBytes (n w : Nat) : List Byte := (List.range n).map fun k => BitVec.ofNat 8 (w >>> (8 * k))

/-- The length of the frame a first byte begins, for a word that the table gives fewer bits than its instruction has: a
host request's where the op byte is assigned, else a WREG frame's. -/
def paddedLength (cp : ChipParams) (b : Byte) : Nat :=
  match hostLength cp b with
  | some n => n
  | none => if b.extractLsb' 4 4 = 5#4 then 3 else 1

/-- The frame a table word stands for and the instruction the decoder reads from it. Of one length, no frame of one layer
is a frame of the other with the decided parameters, so the bytes the table gives are read as they are where they are a
frame; else the bytes above them are 0. -/
def tableFrame (cp : ChipParams) (nbits w : Nat) : Option (Layer × List Byte × Instr) :=
  let given := wordBytes (nbits / 8) w
  let padded := wordBytes (paddedLength cp (BitVec.ofNat 8 w)) w
  match decodeChip cp given, decodeHost cp given, decodeChip cp padded, decodeHost cp padded with
  | .ok i, _, _, _ => some (.chip, given, i)
  | _, .ok i, _, _ => some (.host, given, i)
  | _, _, .ok i, _ => some (.chip, padded, i)
  | _, _, _, .ok i => some (.host, padded, i)
  | _, _, _, _ => none

/-- The instruction the decoder reads from a table word, with the parameters the table is written for. -/
def decodeTableWord (nbits w : Nat) : Option Instr := (tableFrame ChipParams.default nbits w).map fun f => f.2.2

end Sys2Proof
end

