-- ==== Sys2Proof/Machine/Float64.lean ====
section
/-! DEFINITION. The binary64 arithmetic of 42_voltage.md R190 and R196: the format, round to nearest with ties to even,
and the three operations the scalar uses. A finite value is carried as sign, magnitude and binary exponent, exactly; each
operation computes exactly and rounds once. -/

namespace Sys2Proof.Machine

/-- The sign bit. -/
def f64Sign (x : F64) : Bool := x.getLsbD 63

/-- The biased exponent field. -/
def f64Exp (x : F64) : Nat := (x.extractLsb' 52 11).toNat

/-- The fraction field. -/
def f64Frac (x : F64) : Nat := (x.extractLsb' 0 52).toNat

/-- Neither infinite nor NaN. -/
def f64Finite (x : F64) : Bool := decide (f64Exp x ≠ 0x7FF)

/-- Finite and greater than 0: a reference voltage that is not degenerate (R195). -/
def f64FinitePositive (x : F64) : Bool :=
  f64Finite x && !f64Sign x && decide (f64Exp x ≠ 0 ∨ f64Frac x ≠ 0)

/-- The integer significand of a finite value. -/
def f64Mant (x : F64) : Nat := if f64Exp x = 0 then f64Frac x else 2 ^ 52 + f64Frac x

/-- The power of two its significand counts: a finite value is `± f64Mant * 2 ^ f64Scale`. -/
def f64Scale (x : F64) : Int := if f64Exp x = 0 then -1074 else (f64Exp x : Int) - 1075

/-- The power of two of the last place of the result nearest to `m * 2 ^ e` (53 significant bits, none below the
smallest subnormal). -/
def roundPlace (m : Nat) (e : Int) : Int := max (e + (Nat.log2 m : Int) - 52) (-1074)

/-- `m / 2 ^ d` rounded to the nearest integer, ties to even. -/
def shiftRne (m d : Nat) : Nat :=
  let q := m / 2 ^ d
  let r := m % 2 ^ d
  if 2 * r < 2 ^ d then q
  else if 2 * r = 2 ^ d then q + q % 2
  else q + 1

/-- `m * 2 ^ e` as a multiple of its last place. -/
def roundSig (m : Nat) (e : Int) : Nat :=
  let d := roundPlace m e - e
  if 0 ≤ d then shiftRne m d.toNat else m * 2 ^ (-d).toNat

/-- `RNE64(± m * 2 ^ e)` (R14). A carry out of the significand moves into the exponent field by itself. The binary64
value nearest to a magnitude past the largest finite value is that value: no infinity is near to a real number, and no
result of the scalar is infinite (R195; log entry 8). -/
def roundPack (neg : Bool) (m : Nat) (e : Int) : F64 :=
  let magnitude :=
    if m = 0 then 0 else min ((roundPlace m e + 1074).toNat * 2 ^ 52 + roundSig m e) (0x7FF * 2 ^ 52 - 1)
  BitVec.ofNat 64 (magnitude + if neg then 2 ^ 63 else 0)

/-- `f64(code)`: an `i32` as a binary64 value, exactly (R196). -/
def f64OfCode (c : Code32) : F64 := roundPack (decide (c.toInt < 0)) c.toInt.natAbs 0

/-- `fl(x / 2^k)` of a finite value (R190). -/
def f64DivPow2 (x : F64) (k : Nat) : F64 := roundPack (f64Sign x) (f64Mant x) (f64Scale x - k)

/-- `fl(x * y)` of finite values (R190). -/
def f64Mul (x y : F64) : F64 :=
  roundPack (f64Sign x ^^ f64Sign y) (f64Mant x * f64Mant y) (f64Scale x + f64Scale y)

/-- `RNE64(± num / den)`, for a decimal numeral (R104): the quotient is taken to more places than any binary64 value has,
with a last bit that says whether something was left over. -/
def f64OfRatio (neg : Bool) (num den : Nat) : F64 :=
  let k := 1200 + Nat.log2 (den + 1)
  let q := num * 2 ^ k / den
  let sticky := if num * 2 ^ k % den = 0 then 0 else 1
  roundPack neg (2 * q + sticky) (-(k : Int) - 1)

end Sys2Proof.Machine
end

