-- ==== Sys2Proof/Machine/State.lean ====
section
/-! DEFINITION. The state of the block: one record per device instance (10_state.md R31 to R41) and the bus (R42), the
event trace (R45), with what the environment brings (R11, R44, R52) held beside it as plain data, and the reset state
(R53). -/

namespace Sys2Proof.Machine

/-- `fsm`: the sequencer state (R31). -/
inductive Fsm where
  | uninitialized
  | reset
  | configured
  | idle
  | converting
  deriving DecidableEq, Repr

/-- The level last commanded on an output line (R35, R36). -/
inductive Line where
  | high
  | low
  | unknown
  deriving DecidableEq, Repr

/-- The outcome an operation reports to the host (R210). -/
inductive Status where
  | ok
  | transportError
  | gpioError
  | timeout
  | configError
  deriving DecidableEq, Repr

/-- A host operation that runs as a list of port events (R140). -/
inductive Operation where
  | init (r g : Byte)
  | setcfg (r g : Byte)
  | read (p n : Nat)
  deriving DecidableEq, Repr

/-- A write of state that belongs to the success of one port event. -/
inductive Effect where
  /-- None. -/
  | nothing
  /-- `fsm <- Reset`, and the wait that follows begins with `poll_count <- 0` (R144, R147). -/
  | enterReset
  /-- `fsm <- Converting`, and the wait that follows begins with `poll_count <- 0` (R156, R147). -/
  | enterConverting
  /-- `cfg_rate <- r; cfg_gain <- g; fsm <- Configured` (R149, R152). -/
  | commit (r g : Byte)
  /-- `fsm <- Idle` (R159). -/
  | enterIdle
  /-- The three received bytes are the conversion code (R158). -/
  | keepData
  deriving DecidableEq, Repr

/-- The next thing a sequencer operation asks of its ports (R15, R44). A list of these is what is left of the
operation's event list. -/
inductive PortCall where
  /-- `Acquire()`. -/
  | acquire
  /-- `SetCS(level)`. -/
  | setCS (l : Level) (e : Effect)
  /-- `SetRST(level)`. -/
  | setRST (l : Level)
  /-- `Sleep(d)`. -/
  | sleep (d : Duration) (e : Effect)
  /-- `Transfer(tx)`. -/
  | transfer (tx : List Byte) (e : Effect)
  /-- `WaitDRDY(awaited, bound)`, about to read the line (R147). -/
  | readDRDY (awaited : Level) (bound : Nat)
  /-- `WaitDRDY(awaited, bound)`, about to sleep before the next read (R147). -/
  | pollSleep (awaited : Level) (bound : Nat)
  /-- The one `SetCS(High)` of `Abort` (R215). -/
  | cleanupCS
  /-- `Release()`, after which the operation responds (R145, R215). -/
  | release (st : Status)
  deriving DecidableEq, Repr

/-- `op`: the operation in progress and its position (R40). The position is the rest of its list of port calls, the next
one first. `data` is the conversion code between its transfer and the response; it goes with the operation (R49). -/
structure InProgress where
  operation : Operation
  rest : List PortCall
  data : Option Code24
  deriving DecidableEq, Repr

/-- The result of a `Transfer` as the trace records it (R45). -/
inductive XferResult where
  | rx (bytes : List Byte)
  | transportError
  deriving DecidableEq, Repr

/-- A port event of the trace (R45). -/
inductive Event where
  | acq
  | rel
  | cs (l : Level) (r : LineAnswer)
  | rst (l : Level) (r : LineAnswer)
  | xfer (tx : List Byte) (r : XferResult)
  | drdy (r : DrdyAnswer)
  | sleep (d : Duration)
  deriving DecidableEq, Repr

/-- The environment of one device instance (R10, R11): the requests the host has issued and the responses it has got,
each oldest first, and the answers its ports will give, next one first. `drawn` counts the answers taken; where a queue
is empty the answer is a free value of `Config` at `drawn` (log entry 2). -/
structure Env where
  requests : List (List Byte)
  responses : List (List Byte)
  csAnswers : List LineAnswer
  rstAnswers : List LineAnswer
  drdyAnswers : List DrdyAnswer
  xferAnswers : List XferAnswer
  drawn : Nat
  deriving DecidableEq, Repr

/-- The record of one device instance (R31 to R41), with its environment. -/
structure Device where
  fsm : Fsm
  cfgRate : Option Byte
  cfgGain : Option Byte
  csOut : Line
  rstOut : Line
  holdsLock : Bool
  pollCount : Nat
  csFault : Bool
  op : Option InProgress
  vref : F64
  env : Env
  deriving DecidableEq, Repr

/-- The machine: the parameters (R8), the device instances by index (R227), the bus lock (R42), the event trace of the
bus, each event with its instance, oldest first (R45, and 92_eei_decisions.md D40), and the model's own `cur`, `turns`,
`ticks`: whose turn it is, whose turns come next, and how many steps were taken (log entry 3). -/
structure State where
  params : Params
  devices : List Device
  busOwner : Option Nat
  trace : List (Nat × Event)
  cur : Nat
  turns : List Turn
  ticks : Nat
  deriving DecidableEq, Repr

/-- What stops the machine. -/
inductive Fault where
  /-- A turn went to an index at which there is no device instance. Raised by every instruction and by step. Safe: the spec
  gives the bus `N_INST` instances and no other. -/
  | noSuchDevice (i : Nat)
  deriving DecidableEq, Repr

/-- What has no meaning: a refused request marks the run and changes nothing (60_exceptions.md R222). -/
inductive Refusal where
  /-- An instruction without a meaning yet. Raised by exec's refused arms only. Safe. -/
  | notModelled (mnemonic : String)
  /-- Bytes that are no frame of their layer: an unassigned op byte, or a length that is not the op's (R102, R222 a; an
  over-long one by log entry 10). Raised by step. Safe. -/
  | badFrame (e : DecodeError)
  /-- INIT, SETCFG, READ or VOLTS in an `fsm` state that does not accept it (R222 b, c). Raised by those. Safe. -/
  | wrongState (f : Fsm)
  /-- READ or VOLTS while the cache field it reads is `none`, or names no entry of `RATES` (R222 b). Raised by those.
  Safe. -/
  | cacheEmpty
  /-- A sequencer operation while another of the same device instance is in progress (R140, R142, D42). Raised by INIT, SETCFG,
  READ, READSE; step never asks for it. Safe. -/
  | busy
  /-- A chip frame that is not the transfer at which the operation in progress stands: an operation's port events are
  exactly its list, in its order (R140). Raised by the chip frames. Safe. -/
  | frameNotDue
  deriving DecidableEq, Repr

/-- `VREF` of a device instance: any finite value above 0 (R8, R41). Where the candidate is none, 5.0, so that what is left
open is exactly a value that R242 item 4 admits (log entry 7). -/
def vrefOf (i : Nat) : F64 :=
  if f64FinitePositive (Config.vrefCandidate i) then Config.vrefCandidate i else 0x4014000000000000#64

/-- The environment before anything was asked of it. -/
def Env.empty : Env :=
  { requests := [], responses := [], csAnswers := [], rstAnswers := [], drdyAnswers := [], xferAnswers := [], drawn := 0 }

/-- A device instance after construction (R53). -/
def Device.constructed (vref : F64) : Device :=
  { fsm := .uninitialized, cfgRate := none, cfgGain := none, csOut := .unknown, rstOut := .unknown, holdsLock := false,
    pollCount := 0, csFault := false, op := none, vref := vref, env := Env.empty }

/-- The parameters with the decided values and defaults of R8 and R93, and the OPEN values free. -/
def Params.default : Params :=
  { chip := ChipParams.default, rates := rateEntries Config.maxPolls, initPolls := Config.initPolls, initDrdyLevel := .low }

/-- The machine right after construction (R53, R240 a): every device instance as constructed, the lock free, no event. -/
def State.reset : State :=
  { params := Params.default
    devices := Device.constructed (vrefOf 0) ::
      (List.range Config.moreInstances).map fun k => Device.constructed (vrefOf (k + 1))
    busOwner := none, trace := [], cur := 0, turns := [], ticks := 0 }

end Sys2Proof.Machine
end

