-- ==== Sys2Proof/Machine/Operands.lean ====
section
/-! DEFINITION. The operands of host requests (30_encoding.md R97, R101): which values are legal, and the values they
name. -/

namespace Sys2Proof.Machine

/-- A register address that names a chip register (R88, R120). -/
def validReg (cp : ChipParams) (r : Byte) : Bool := decide (r.toNat ≤ cp.regMax)

/-- A pair of channel indices that both name channels (R90, R121). -/
def validChannels (cp : ChipParams) (p n : Nat) : Bool := isChannel cp p && isChannel cp n

/-- A gain index that names one of `GAINS`: the index is `log2` of the gain, so 0 to 6 with the gains of R8 (R92). -/
def validGain (cp : ChipParams) (g : Byte) : Bool := decide (2 ^ g.toNat ∈ cp.gains)

/-- The entry of `RATES` that a rate index names; `none` for an index `≥ len(RATES)` (R93). -/
def rateAt (ps : Params) (r : Byte) : Option RateEntry := ps.rates[r.toNat]?

/-- A reference voltage that is not degenerate (R195). -/
def validVref (v : F64) : Bool := f64FinitePositive v

/-- `decode_conversion_code` as an integer: the big-endian 24-bit value, less 2^24 where its top bit is set (R122). -/
def codeOf24 (u : Code24) : Int := if 2 ^ 23 ≤ u.toNat then (u.toNat : Int) - 2 ^ 24 else u.toNat

/-- The code as the `i32` that is returned (R122, R159). -/
def code32Of24 (u : Code24) : Code32 := BitVec.ofInt 32 (codeOf24 u)

/-- `encode_as_three_bytes` (R127). -/
def bytesOf24 (u : Code24) : List Byte := [u.extractLsb' 16 8, u.extractLsb' 8 8, u.extractLsb' 0 8]

/-- `SCALE(code, g, vref)`, in the order of operations of R190; `none` where it raises `ConfigError` (R190, R195). -/
def scaleCode (cp : ChipParams) (c : Code32) (g : Byte) (vref : F64) : Option F64 :=
  if validGain cp g && validVref vref then
    some (f64Mul (f64DivPow2 (f64OfCode c) 23) (f64DivPow2 vref g.toNat))
  else none

end Sys2Proof.Machine
end

