-- ==== Sys2Proof/Machine/Flags.lean ====
section
/-! DEFINITION. Status. The block has no condition codes (10_state.md R46): an operation's outcome is a status code in its
response (60_exceptions.md R210), and the one sticky bit is `cs_fault`. Here are the codes, and the status words that the
spec lays out over the state (R31, R47). -/

namespace Sys2Proof.Machine

/-- The status byte of a response (R210). -/
def Status.code : Status → Byte
  | .ok => 0#8
  | .transportError => 1#8
  | .gpioError => 2#8
  | .timeout => 3#8
  | .configError => 4#8

/-- The 3-bit code of `fsm` (R31). -/
def Fsm.code : Fsm → BitVec 3
  | .uninitialized => 0#3
  | .reset => 1#3
  | .configured => 2#3
  | .idle => 3#3
  | .converting => 4#3

/-- CFG.valid: both cached fields are not `none` (R47). -/
def Device.cfgValid (m : Device) : Bool := m.cfgRate.isSome && m.cfgGain.isSome

/-- The control register CFG: `valid` in bit 15, bits 14 to 11 read as 0, `gain_idx` in bits 10 to 8, `rate_idx` in bits
7 to 0 (R47). A field whose cache is `none` has no meaning and shows its reset value 0 (log entry 11). -/
def Device.cfg (m : Device) : BitVec 16 :=
  (BitVec.ofBool m.cfgValid) ++ 0#4 ++ ((m.cfgGain.getD 0#8).setWidth 3) ++ (m.cfgRate.getD 0#8)

/-- The response frame: one status byte, and a payload only where the status is OK (R103). -/
def responseFrame (st : Status) (payload : List Byte) : List Byte :=
  match st with
  | .ok => Status.code .ok :: payload
  | .transportError => [Status.code .transportError]
  | .gpioError => [Status.code .gpioError]
  | .timeout => [Status.code .timeout]
  | .configError => [Status.code .configError]

/-- The `fsm` states in which SETCFG, READ and VOLTS are accepted (R151, R154, R192). -/
def Fsm.operating : Fsm → Bool
  | .uninitialized => false
  | .reset => false
  | .configured => true
  | .idle => true
  | .converting => false

/-- The `fsm` states in which INIT is accepted (R142). -/
def Fsm.acceptsInit : Fsm → Bool
  | .uninitialized => true
  | .reset => false
  | .configured => true
  | .idle => true
  | .converting => false

end Sys2Proof.Machine
end

