-- ==== Sys2Proof/Machine/Ops.lean ====
section
/-! DEFINITION. The shared operations: the port primitives of 00_scope.md R15 with the environment's answers, the one
error path `Abort` of 60_exceptions.md R215 and the way back from it, the step of one port event (10_state.md R40), the
run of an operation to its end or to a hold, and the host's response. -/

namespace Sys2Proof.Machine

/-! ### The environment's answers (R11) -/

/-- The next answer to a `SetCS`. -/
def Env.csAnswer (me : Nat) (e : Env) : LineAnswer := e.csAnswers.headD (Config.freeLine me e.drawn)

/-- The next answer to a `SetRST`. -/
def Env.rstAnswer (me : Nat) (e : Env) : LineAnswer := e.rstAnswers.headD (Config.freeLine me e.drawn)

/-- The next answer to a `ReadDRDY`. -/
def Env.drdyAnswer (me : Nat) (e : Env) : DrdyAnswer := e.drdyAnswers.headD (Config.freeDrdy me e.drawn)

/-- The next answer to a `Transfer`. -/
def Env.xferAnswer (me : Nat) (e : Env) : XferAnswer := e.xferAnswers.headD (Config.freeXfer me e.drawn)

/-- The environment after it answered a `SetCS`. -/
def Env.afterCS (e : Env) : Env := { e with csAnswers := e.csAnswers.tail, drawn := e.drawn + 1 }

/-- The environment after it answered a `SetRST`. -/
def Env.afterRST (e : Env) : Env := { e with rstAnswers := e.rstAnswers.tail, drawn := e.drawn + 1 }

/-- The environment after it answered a `ReadDRDY`. -/
def Env.afterDRDY (e : Env) : Env := { e with drdyAnswers := e.drdyAnswers.tail, drawn := e.drawn + 1 }

/-- The environment after it answered a `Transfer`. -/
def Env.afterXfer (e : Env) : Env := { e with xferAnswers := e.xferAnswers.tail, drawn := e.drawn + 1 }

/-! ### Small writes of a device record -/

/-- The operation in progress stands before `rest`. -/
def Device.goto (m : Device) (rest : List PortCall) : Device :=
  { m with op := m.op.map fun o => { o with rest := rest } }

/-- The line level a successful write leaves (R35, R36). -/
def lineOf : Level → Line
  | .low => .low
  | .high => .high

/-- The host gets one more response frame (R103). -/
def Device.respond (m : Device) (frame : List Byte) : Device :=
  { m with env := { m.env with responses := m.env.responses ++ [frame] } }

/-- The received bytes of a data read as a conversion code, the first the most significant (R62, R158). -/
def codeOfRx : List Byte → Option Code24
  | [b0, b1, b2] => some (u24 b0 b1 b2)
  | _ => none

/-- What the success of a port event writes; `rx` is what the transfer received, if it was one. -/
def Device.applyEffect (m : Device) (e : Effect) (rx : List Byte) : Device :=
  match e with
  | .nothing => m
  | .enterReset => { m with fsm := .reset, pollCount := 0 }
  | .enterConverting => { m with fsm := .converting, pollCount := 0 }
  | .commit r g => { m with cfgRate := some r, cfgGain := some g, fsm := .configured }
  | .enterIdle => { m with fsm := .idle }
  | .keepData => { m with op := m.op.map fun o => { o with data := codeOfRx rx } }

/-! ### Errors (R215 to R217) -/

/-- `Abort(E)`: what is left of the operation is one attempt at `SetCS(High)`, then `Release()` and the response `E`
(R215). -/
def Device.abort (m : Device) (st : Status) : Device := m.goto [.cleanupCS, .release st]

/-- The state after an abort (R217). -/
def Device.afterAbort (m : Device) (o : Operation) : Device :=
  match o with
  | .init _ _ => { m with fsm := .uninitialized, cfgRate := none, cfgGain := none }
  | .setcfg _ _ => { m with fsm := .uninitialized, cfgRate := none, cfgGain := none }
  | .read _ _ => { m with fsm := .idle }

/-- The payload of an operation's OK response: READ's is the code as a big-endian `i32` (R103). -/
def InProgress.payload (o : InProgress) : List Byte :=
  match o.operation with
  | .init _ _ => []
  | .setcfg _ _ => []
  | .read _ _ =>
    match o.data with
    | some u => bytesOf32 (code32Of24 u)
    | none => []

/-- The end of an operation: after an error the state of R217, then the response (R145, R155, R215). -/
def Device.conclude (m : Device) (o : InProgress) (st : Status) : Device :=
  match st with
  | .ok => m.respond (responseFrame .ok o.payload)
  | .transportError => (m.afterAbort o.operation).respond (responseFrame .transportError [])
  | .gpioError => (m.afterAbort o.operation).respond (responseFrame .gpioError [])
  | .timeout => (m.afterAbort o.operation).respond (responseFrame .timeout [])
  | .configError => (m.afterAbort o.operation).respond (responseFrame .configError [])

/-! ### One port event (R40) -/

/-- What a port event of one device instance can touch: its own record, the lock, and the events recorded so far. -/
structure Lane where
  dev : Device
  owner : Option Nat
  events : List Event
  deriving DecidableEq, Repr

/-- The lane with one more event and a new device record. -/
def Lane.record (l : Lane) (e : Event) (m : Device) : Lane := { l with dev := m, events := l.events ++ [e] }

/-- `Acquire()`: takes the lock where it is free, and holds where it is not (R15, R167). -/
def Lane.acquire (me : Nat) (rest : List PortCall) (l : Lane) : Lane :=
  match l.owner with
  | none => { dev := { l.dev with holdsLock := true }.goto rest, owner := some me, events := l.events ++ [.acq] }
  | some _ => l

/-- `SetCS(level)` (R35). -/
def Lane.setCS (me : Nat) (lvl : Level) (eff : Effect) (rest : List PortCall) (l : Lane) : Lane :=
  let m := { l.dev with env := l.dev.env.afterCS }
  match l.dev.env.csAnswer me with
  | .ok => l.record (.cs lvl .ok) (({ m with csOut := lineOf lvl }.goto rest).applyEffect eff [])
  | .gpioError => l.record (.cs lvl .gpioError) ({ m with csOut := .unknown }.abort .gpioError)

/-- `SetRST(level)` (R36). -/
def Lane.setRST (me : Nat) (lvl : Level) (rest : List PortCall) (l : Lane) : Lane :=
  let m := { l.dev with env := l.dev.env.afterRST }
  match l.dev.env.rstAnswer me with
  | .ok => l.record (.rst lvl .ok) ({ m with rstOut := lineOf lvl }.goto rest)
  | .gpioError => l.record (.rst lvl .gpioError) ({ m with rstOut := .unknown }.abort .gpioError)

/-- `Sleep(d)`, which never fails (R15). -/
def Lane.sleep (d : Duration) (eff : Effect) (rest : List PortCall) (l : Lane) : Lane :=
  l.record (.sleep d) ((l.dev.goto rest).applyEffect eff [])

/-- `Transfer(tx)` (R15, R68, R211). -/
def Lane.transfer (me : Nat) (tx : List Byte) (eff : Effect) (rest : List PortCall) (l : Lane) : Lane :=
  let m := { l.dev with env := l.dev.env.afterXfer }
  match l.dev.env.xferAnswer me with
  | .rx b0 b1 b2 =>
    let rx := [b0, b1, b2].take tx.length
    l.record (.xfer tx (.rx rx)) ((m.goto rest).applyEffect eff rx)
  | .transportError => l.record (.xfer tx .transportError) (m.abort .transportError)

/-- One turn of the loop of `WaitDRDY`: read, count, and go on, give up, or sleep next (R147). The bound is tested with
`≤`, which on every state with `N ≥ 1` and a count below `N` is the rule's `=` (log entry 12). -/
def Lane.readDRDY (me : Nat) (awaited : Level) (bound : Nat) (rest : List PortCall) (l : Lane) : Lane :=
  let m := { l.dev with env := l.dev.env.afterDRDY }
  match l.dev.env.drdyAnswer me with
  | .gpioError => l.record (.drdy .gpioError) (m.abort .gpioError)
  | .level lvl =>
    let counted := { m with pollCount := m.pollCount + 1 }
    l.record (.drdy (.level lvl))
      (if lvl = awaited then counted.goto rest
       else if bound ≤ counted.pollCount then counted.abort .timeout
       else counted.goto (.pollSleep awaited bound :: rest))

/-- The `Sleep(T_POLL)` between two reads of `WaitDRDY` (R147). -/
def Lane.pollSleep (awaited : Level) (bound : Nat) (rest : List PortCall) (l : Lane) : Lane :=
  l.record (.sleep .tPoll) (l.dev.goto (.readDRDY awaited bound :: rest))

/-- The `SetCS(High)` of `Abort`; its failure sets `cs_fault` and changes nothing of what follows (R215, R216). -/
def Lane.cleanupCS (me : Nat) (rest : List PortCall) (l : Lane) : Lane :=
  let m := { l.dev with env := l.dev.env.afterCS }
  match l.dev.env.csAnswer me with
  | .ok => l.record (.cs .high .ok) ({ m with csOut := .high }.goto rest)
  | .gpioError => l.record (.cs .high .gpioError) ({ m with csOut := .unknown, csFault := true }.goto rest)

/-- `Release()` and the end of the operation (R145, R215, R217). -/
def Lane.release (me : Nat) (o : InProgress) (st : Status) (l : Lane) : Lane :=
  { dev := { l.dev with holdsLock := false, op := none }.conclude o st
    owner := if l.owner = some me then none else l.owner
    events := l.events ++ [.rel] }

/-- The next port event of device instance `me`: one event, or none where it has no operation or holds (R40, R140). -/
def Lane.next (me : Nat) (l : Lane) : Lane :=
  match l.dev.op with
  | none => l
  | some o =>
    match o.rest with
    | [] => l
    | .acquire :: rest => l.acquire me rest
    | .setCS lvl eff :: rest => l.setCS me lvl eff rest
    | .setRST lvl :: rest => l.setRST me lvl rest
    | .sleep d eff :: rest => l.sleep d eff rest
    | .transfer tx eff :: rest => l.transfer me tx eff rest
    | .readDRDY awaited bound :: rest => l.readDRDY me awaited bound rest
    | .pollSleep awaited bound :: rest => l.pollSleep awaited bound rest
    | .cleanupCS :: rest => l.cleanupCS me rest
    | .release st :: _ => l.release me o st

/-- `k` port events, fewer where the operation ends or holds before. -/
def Lane.run (me : Nat) : Nat → Lane → Lane
  | 0, l => l
  | k + 1, l => Lane.run me k (l.next me)

/-- The most port events a port call can take: a wait with bound `N` at most `2N` (R147). -/
def PortCall.cost : PortCall → Nat
  | .acquire => 1
  | .setCS _ _ => 1
  | .setRST _ => 1
  | .sleep _ _ => 1
  | .transfer _ _ => 1
  | .readDRDY _ bound => 2 * bound + 1
  | .pollSleep _ bound => 2 * bound + 2
  | .cleanupCS => 1
  | .release _ => 1

/-- More port events than the operation in progress can have left, its cleanup among them (R163). -/
def Device.eventsLeft (m : Device) : Nat :=
  match m.op with
  | none => 0
  | some o => (o.rest.map PortCall.cost).sum + 2

/-! ### The machine -/

/-- Continues after a next state. -/
def mapNext {α β : Type} (f : α → β) : Host.Outcome α Fault Refusal → Host.Outcome β Fault Refusal
  | .next a => .next (f a)
  | .fault r => .fault r
  | .refused r => .refused r

/-- The lane of the device instance whose turn it is. -/
def State.lane (s : State) (m : Device) : Lane := { dev := m, owner := s.busOwner, events := [] }

/-- The state after its device instance's lane became `l`: the events go to the bus trace under its index (R45). -/
def State.withLane (s : State) (l : Lane) : State :=
  { s with
    devices := s.devices.set s.cur l.dev
    busOwner := l.owner
    trace := s.trace ++ l.events.map fun e => (s.cur, e) }

/-- One port event of the device instance whose turn it is (R40). -/
def State.portStep (s : State) : State :=
  match s.devices[s.cur]? with
  | none => s
  | some m => s.withLane ((s.lane m).next s.cur)

/-- The operation in progress of the device instance whose turn it is, to its end or to a hold (R140). -/
def State.finish (s : State) : State :=
  match s.devices[s.cur]? with
  | none => s
  | some m => s.withLane (Lane.run s.cur m.eventsLeft (s.lane m))

/-- An operation on the record of the device instance whose turn it is. -/
def onDevice (s : State) (f : Device → Host.Outcome Device Fault Refusal) : Host.Outcome State Fault Refusal :=
  match s.devices[s.cur]? with
  | none => .fault (.noSuchDevice s.cur)
  | some m => mapNext (fun m' => { s with devices := s.devices.set s.cur m' }) (f m)

/-- A response, and nothing else (R119, R214). -/
def reply (st : Status) (payload : List Byte) (s : State) : Host.Outcome State Fault Refusal :=
  onDevice s fun m => .next (m.respond (responseFrame st payload))

/-- The response OK with a payload, or `ConfigError` where there is none. -/
def replyResult (payload : Option (List Byte)) (s : State) : Host.Outcome State Fault Refusal :=
  match payload with
  | some bytes => reply .ok bytes s
  | none => reply .configError [] s

/-- An operation begins: it stands before the first of its port calls (R40). -/
def Device.begin (m : Device) (o : Operation) (plan : List PortCall) : Device :=
  { m with op := some { operation := o, rest := plan, data := none } }

/-- The transfer at which the operation in progress stands. -/
def Device.dueFrame (m : Device) : Option (List Byte) :=
  match m.op with
  | none => none
  | some o =>
    match o.rest with
    | .transfer tx _ :: _ => some tx
    | _ => none

/-- The device instance whose turn it is sends the frame at which its operation stands (R81, R140). -/
def sendFrame (tx : List Byte) (s : State) : Host.Outcome State Fault Refusal :=
  match s.devices[s.cur]? with
  | none => .fault (.noSuchDevice s.cur)
  | some m => if m.dueFrame = some tx then .next s.portStep else .refused .frameNotDue

end Sys2Proof.Machine
end

