-- ==== Sys2Proof/Machine/Codec.lean ====
section
/-! DEFINITION. The codec operations (40_codec.md): pure, accepted in every `fsm` state, no port event, no lock (R119). -/

namespace Sys2Proof.Machine

/-- `encode_write_register` (R120); `none` is `ConfigError`. -/
def encodeWriteRegister (cp : ChipParams) (r v : Byte) : Option (List Byte) :=
  if validReg cp r then some (wregFrame (r.setWidth 4) v) else none

/-- `encode_select_channel` (R121); `none` is `ConfigError`. -/
def encodeSelectChannel (cp : ChipParams) (p n : Nat) : Option (List Byte) :=
  if validChannels cp p n then some [muxByte p n] else none

/-- ENCWREG (R120). -/
def execEncwreg (r v : Byte) (s : State) : Host.Outcome State Fault Refusal :=
  replyResult (encodeWriteRegister s.params.chip r v) s

/-- ENCMUX (R121). -/
def execEncmux (p n : Nat) (s : State) : Host.Outcome State Fault Refusal :=
  replyResult (encodeSelectChannel s.params.chip p n) s

/-- DECODE (R122). -/
def execDecode (b0 b1 b2 : Byte) (s : State) : Host.Outcome State Fault Refusal :=
  reply .ok (bytesOf32 (code32Of24 (u24 b0 b1 b2))) s

/-- ENCSYNCWAKE (R123). -/
def execEncsyncwake (s : State) : Host.Outcome State Fault Refusal :=
  reply .ok (syncFrame ++ wakeupFrame s.params.chip) s

/-- ENCRDATA (R124). -/
def execEncrdata (s : State) : Host.Outcome State Fault Refusal := reply .ok rdataFrame s

/-- MUXSE: `ENCMUX ch, AINCOM` (R105). -/
def execMuxse (p : Nat) (s : State) : Host.Outcome State Fault Refusal :=
  replyResult (encodeSelectChannel s.params.chip p s.params.chip.chCom) s

end Sys2Proof.Machine
end

