-- ==== Sys2Proof/Machine/Frames.lean ====
section
/-! DEFINITION. The chip command frames (30_encoding.md R82 to R87). A frame is an instruction of the sequencer: sent as
one `Transfer` (R81), by the operation that stands at it. What the environment answers is recorded; on `TransportError`
the operation aborts (R211), otherwise it goes on, with the write of state that its rule gives the transfer. -/

namespace Sys2Proof.Machine

/-- WREG (R84). -/
def execWreg (r : Nibble) (v : Byte) (s : State) : Host.Outcome State Fault Refusal := sendFrame (wregFrame r v) s

/-- MUXSEL (R85). -/
def execMuxsel (p n : Nibble) (s : State) : Host.Outcome State Fault Refusal := sendFrame (muxselFrame p n) s

/-- SYNC (R86). -/
def execSync (s : State) : Host.Outcome State Fault Refusal := sendFrame syncFrame s

/-- WAKEUP (R86, R156). -/
def execWakeup (s : State) : Host.Outcome State Fault Refusal := sendFrame (wakeupFrame s.params.chip) s

/-- RDATA (R87). -/
def execRdata (s : State) : Host.Outcome State Fault Refusal := sendFrame rdataFrame s

/-- DATAREAD (R158). -/
def execDataread (s : State) : Host.Outcome State Fault Refusal := sendFrame (datareadFrame s.params.chip) s

end Sys2Proof.Machine
end

