-- ==== Sys2Proof/Machine/Scalar.lean ====
section
/-! DEFINITION. The code-to-voltage scalar (42_voltage.md): no port event, no lock. -/

namespace Sys2Proof.Machine

/-- SCALE, the pure form (R190, R195, R196). -/
def execScale (c : Code32) (g : Byte) (vref : F64) (s : State) : Host.Outcome State Fault Refusal :=
  replyResult ((scaleCode s.params.chip c g vref).map bytesOf64) s

/-- VOLTS, the form of the device instance: `SCALE(code, cfg_gain, vref)`, refused where `fsm` or the cache does not let it
run (R192, R222). -/
def execVolts (c : Code32) (s : State) : Host.Outcome State Fault Refusal :=
  onDevice s fun m =>
    if m.fsm.operating then
      match m.cfgGain with
      | none => .refused .cacheEmpty
      | some g =>
        match scaleCode s.params.chip c g m.vref with
        | some v => .next (m.respond (responseFrame .ok (bytesOf64 v)))
        | none => .next (m.respond (responseFrame .configError []))
    else .refused (.wrongState m.fsm)

end Sys2Proof.Machine
end

