-- ==== Sys2Proof/Machine/Sequencer.lean ====
section
/-! DEFINITION. The sequencer operations (41_sequencer.md). Each is a list of port calls, as its rule writes it; an
operation checks its precondition and its operands and then either answers at once, without a port event, or stands
before the first call of its list. -/

namespace Sys2Proof.Machine

/-- `WriteConfig(r, g)` (R148); the closing `SetCS(High)` carries the commit (R149, R152). -/
def writeConfig (r g drate : Byte) : List PortCall :=
  [.setCS .low .nothing,
   .transfer (wregFrame drateReg drate) .nothing,
   .transfer (wregFrame adconReg g) .nothing,
   .setCS .high (.commit r g)]

/-- The reset pulse sequence (R143, R144). -/
def resetPulse : List PortCall :=
  [.setCS .high .nothing,
   .setRST .low, .sleep .tRst .nothing,
   .setRST .high, .sleep .tRst .nothing,
   .sleep .tPwrup .enterReset]

/-- The event list of INIT (R145). -/
def initPlan (ps : Params) (r g drate : Byte) : List PortCall :=
  [.acquire] ++ resetPulse ++ [.readDRDY ps.initDrdyLevel ps.initPolls] ++ writeConfig r g drate ++ [.release .ok]

/-- The event list of SETCFG (R151). -/
def setcfgPlan (r g drate : Byte) : List PortCall := [.acquire] ++ writeConfig r g drate ++ [.release .ok]

/-- The event list of READ (R155 to R159). -/
def readPlan (cp : ChipParams) (polls : Nat) (p n : Nat) : List PortCall :=
  [.acquire,
   .setCS .low .nothing,
   .transfer (wregFrame muxReg (muxByte p n)) .nothing,
   .transfer syncFrame .nothing,
   .sleep .tSync .nothing,
   .transfer (wakeupFrame cp) .enterConverting,
   .readDRDY .low polls,
   .transfer rdataFrame .nothing,
   .sleep .tRdata .nothing,
   .transfer (datareadFrame cp) .keepData,
   .setCS .high .enterIdle,
   .release .ok]

/-- INIT up to its first port event (R142, R145). -/
def startInit (r g : Byte) (s : State) : Host.Outcome State Fault Refusal :=
  onDevice s fun m =>
    if m.op.isSome then .refused .busy
    else if m.fsm.acceptsInit then
      match rateAt s.params r, validGain s.params.chip g with
      | some e, true => .next (m.begin (.init r g) (initPlan s.params r g e.drate))
      | _, _ => .next (m.respond (responseFrame .configError []))
    else .refused (.wrongState m.fsm)

/-- SETCFG up to its first port event (R151). -/
def startSetcfg (r g : Byte) (s : State) : Host.Outcome State Fault Refusal :=
  onDevice s fun m =>
    if m.op.isSome then .refused .busy
    else if m.fsm.operating then
      match rateAt s.params r, validGain s.params.chip g with
      | some e, true => .next (m.begin (.setcfg r g) (setcfgPlan r g e.drate))
      | _, _ => .next (m.respond (responseFrame .configError []))
    else .refused (.wrongState m.fsm)

/-- READ up to its first port event (R154, R155). -/
def startRead (p n : Nat) (s : State) : Host.Outcome State Fault Refusal :=
  onDevice s fun m =>
    if m.op.isSome then .refused .busy
    else if m.fsm.operating then
      match m.cfgRate.bind (rateAt s.params) with
      | none => .refused .cacheEmpty
      | some e =>
        if validChannels s.params.chip p n then .next (m.begin (.read p n) (readPlan s.params.chip e.maxPolls p n))
        else .next (m.respond (responseFrame .configError []))
    else .refused (.wrongState m.fsm)

/-- INIT (R145). -/
def execInit (r g : Byte) (s : State) : Host.Outcome State Fault Refusal := mapNext State.finish (startInit r g s)

/-- SETCFG (R151). -/
def execSetcfg (r g : Byte) (s : State) : Host.Outcome State Fault Refusal := mapNext State.finish (startSetcfg r g s)

/-- READ (R155). -/
def execRead (p n : Nat) (s : State) : Host.Outcome State Fault Refusal := mapNext State.finish (startRead p n s)

/-- READSE: `READ ch, AINCOM` (R105). -/
def execReadse (p : Nat) (s : State) : Host.Outcome State Fault Refusal :=
  mapNext State.finish (startRead p s.params.chip.chCom s)

end Sys2Proof.Machine
end

