-- ==== Sys2Proof/Machine/Dispatch.lean ====
section
/-! DEFINITION. One arm per instruction, each a direct call of its meaning. -/

namespace Sys2Proof.Machine

def exec (i : Instr) (s : State) : Host.Outcome State Fault Refusal :=
  match i with
  | .wreg r v => Sys2Proof.Machine.execWreg r v s
  | .muxsel p n => Sys2Proof.Machine.execMuxsel p n s
  | .sync => Sys2Proof.Machine.execSync s
  | .wakeup => Sys2Proof.Machine.execWakeup s
  | .rdata => Sys2Proof.Machine.execRdata s
  | .dataread => Sys2Proof.Machine.execDataread s
  | .init r g => Sys2Proof.Machine.execInit r g s
  | .setcfg r g => Sys2Proof.Machine.execSetcfg r g s
  | .read p n => Sys2Proof.Machine.execRead p n s
  | .volts c => Sys2Proof.Machine.execVolts c s
  | .scale c g vref => Sys2Proof.Machine.execScale c g vref s
  | .encwreg r v => Sys2Proof.Machine.execEncwreg r v s
  | .encmux p n => Sys2Proof.Machine.execEncmux p n s
  | .decode b0 b1 b2 => Sys2Proof.Machine.execDecode b0 b1 b2 s
  | .encsyncwake => Sys2Proof.Machine.execEncsyncwake s
  | .encrdata => Sys2Proof.Machine.execEncrdata s
  | .readse p => Sys2Proof.Machine.execReadse p s
  | .muxse p => Sys2Proof.Machine.execMuxse p s

end Sys2Proof.Machine
end

