-- ==== Sys2Proof/Machine/Turns.lean ====
section
/-! DEFINITION. What a turn of an agent does (00_scope.md R10): it goes on with the operation in progress, or takes the
next host request. Then how a frame of the opcode table comes to be the next thing that runs. -/

namespace Sys2Proof.Machine

/-- The turn of this step: the next one the state names, else a free choice among the device instances (R73). -/
def State.turn (s : State) : Turn :=
  match s.turns with
  | t :: _ => t
  | [] => { agent := (Config.freeTurn s.ticks).agent % s.devices.length, grain := (Config.freeTurn s.ticks).grain }

/-- The state in which that turn runs. -/
def State.takeTurn (s : State) : State :=
  { s with cur := s.turn.agent, turns := s.turns.tail, ticks := s.ticks + 1 }

/-- A host operation up to its first port event; a pure one whole, since it has none (R40, R119). -/
def beginOp (i : Instr) (s : State) : Host.Outcome State Fault Refusal :=
  match i with
  | .wreg _ _ => exec i s
  | .muxsel _ _ => exec i s
  | .sync => exec i s
  | .wakeup => exec i s
  | .rdata => exec i s
  | .dataread => exec i s
  | .init r g => startInit r g s
  | .setcfg r g => startSetcfg r g s
  | .read p n => startRead p n s
  | .volts _ => exec i s
  | .scale _ _ _ => exec i s
  | .encwreg _ _ => exec i s
  | .encmux _ _ => exec i s
  | .decode _ _ _ => exec i s
  | .encsyncwake => exec i s
  | .encrdata => exec i s
  | .readse p => startRead p s.params.chip.chCom s
  | .muxse _ => exec i s

/-- A turn of a device instance with an operation in progress: all that is left of it, or its next port event, which is
a chip frame's instruction where the operation stands at a transfer (R40, R81). -/
def continueOp (m : Device) (grain : Grain) (s : State) : Host.Outcome State Fault Refusal :=
  match grain with
  | .whole => .next s.finish
  | .event =>
    match m.dueFrame with
    | none => .next s.portStep
    | some tx =>
      match decodeChip s.params.chip tx with
      | .ok i => exec i s
      | .error e => .refused (.badFrame e)

/-- The state after the oldest request of device instance `m` has been taken from its queue. -/
def State.popRequest (s : State) (m : Device) : State :=
  { s with devices := s.devices.set s.cur { m with env := { m.env with requests := m.env.requests.tail } } }

/-- A turn of a device instance with no operation in progress: its oldest request, or nothing where the host has issued
none (R100, R102, R140). -/
def serveHost (m : Device) (grain : Grain) (s : State) : Host.Outcome State Fault Refusal :=
  match m.env.requests with
  | [] => .next s
  | bytes :: _ =>
    match decodeHost s.params.chip bytes with
    | .error e => .refused (.badFrame e)
    | .ok i =>
      match grain with
      | .whole => exec i (s.popRequest m)
      | .event => beginOp i (s.popRequest m)

/-- One turn, taken in the state that `takeTurn` gives. -/
def runTurn (grain : Grain) (s : State) : Host.Outcome State Fault Refusal :=
  match s.devices[s.cur]? with
  | none => .fault (.noSuchDevice s.cur)
  | some m =>
    match m.op with
    | some _ => continueOp m grain s
    | none => serveHost m grain s

/-! ### Placing a frame -/

/-- A device instance that has issued `bytes` as its next host request and has no operation in progress. -/
def Device.withRequest (m : Device) (bytes : List Byte) : Device :=
  { m with op := none, env := { m.env with requests := bytes :: m.env.requests } }

/-- What is left of an operation that stands at the transfer of `tx`: READ's own list from that frame on where READ sends
it (R155), else the frame and the closing of the window. -/
def frameTail (cp : ChipParams) (polls : Nat) (tx : List Byte) : List PortCall :=
  match decodeChip cp tx with
  | .ok (.muxsel p n) => (readPlan cp polls p.toNat n.toNat).drop 2
  | .ok .sync => (readPlan cp polls 0 0).drop 3
  | .ok .wakeup => (readPlan cp polls 0 0).drop 5
  | .ok .rdata => (readPlan cp polls 0 0).drop 7
  | .ok .dataread => (readPlan cp polls 0 0).drop 9
  | _ => [.transfer tx .nothing, .setCS .high .nothing, .release .ok]

/-- A device instance whose operation stands at the transfer of `tx`, in a chip-select window: the lock held and CS low
(R141). The operation is a READ, the one whose window takes every kind of frame (log entry 13). -/
def Device.atFrame (m : Device) (cp : ChipParams) (polls : Nat) (tx : List Byte) : Device :=
  { m with
    holdsLock := true
    csOut := .low
    op := some { operation := .read 0 0, rest := frameTail cp polls tx, data := none } }

/-- `s` with a frame of a layer placed where the next step runs it. -/
def State.placeFrame (s : State) (layer : Layer) (bytes : List Byte) : State :=
  match s.devices[s.cur]? with
  | none => s
  | some m =>
    match layer with
    | .host =>
      { s with
        devices := s.devices.set s.cur (m.withRequest bytes)
        turns := { agent := s.cur, grain := .whole } :: s.turns }
    | .chip =>
      { s with
        devices := s.devices.set s.cur (m.atFrame s.params.chip s.params.initPolls bytes)
        busOwner := some s.cur
        turns := { agent := s.cur, grain := .event } :: s.turns }

end Sys2Proof.Machine
end

