-- ==== Sys2Proof/Machine/Step.lean ====
section
/-! DEFINITION. One step of the machine: one turn of one agent (00_scope.md R10). -/

namespace Sys2Proof.Machine

/-- One step: the state says whose turn it is and how far it goes. -/
def step (s : State) : Host.Outcome State Fault Refusal := runTurn s.turn.grain s.takeTurn

/-- `s` with the instruction of an opcode-table word placed where the next step runs it: a host request at the head of
the current device instance's queue with a whole turn for it, or a chip frame as the transfer at which its operation
stands, with a turn of one event. The word is read with the parameters of `s`; `s` is unchanged where it is no
instruction's (log entry 13). -/
def State.withFetchWord (s : State) (nbits w : Nat) : State :=
  match tableFrame s.params.chip nbits w with
  | none => s
  | some (layer, bytes, _) => s.placeFrame layer bytes

end Sys2Proof.Machine
end

