-- ==== Sys2Proof/Machine/Assembler.lean ====
section
/-! DEFINITION. The assembly syntax of host operations (30_encoding.md R104, R105): `MNEMONIC op1, op2, …`, over lists of
characters. It yields the instruction as written, or `none` for a text that is not of that form. What R104 leaves open
of the syntax is the model's choice (log entry 14). -/

namespace Sys2Proof.Machine

/-- A decimal digit's value. -/
def digitValue (c : Char) : Option Nat :=
  if '0' ≤ c ∧ c ≤ '9' then some (c.toNat - '0'.toNat) else none

/-- A hexadecimal digit's value, in either case (log entry 14). -/
def hexDigitValue (c : Char) : Option Nat :=
  match digitValue c with
  | some d => some d
  | none =>
    if 'A' ≤ c ∧ c ≤ 'F' then some (c.toNat - 'A'.toNat + 10)
    else if 'a' ≤ c ∧ c ≤ 'f' then some (c.toNat - 'a'.toNat + 10)
    else none

/-- The digits of a numeral in a base, after the value so far. -/
def digitsValue (base : Nat) (digit : Char → Option Nat) : Nat → List Char → Option Nat
  | acc, [] => some acc
  | acc, c :: cs =>
    match digit c with
    | some d => digitsValue base digit (base * acc + d) cs
    | none => none

/-- A number: decimal, or hex with `0x` (R104). -/
def parseNat : List Char → Option Nat
  | '0' :: 'x' :: c :: cs => digitsValue 16 hexDigitValue 0 (c :: cs)
  | c :: cs => digitsValue 10 digitValue 0 (c :: cs)
  | [] => none

/-- The number in a name such as `AIN7` or `G16`: decimal, with no leading zero, as R104 writes those names. -/
def parseIndex : List Char → Option Nat
  | [] => none
  | c :: cs => if c = '0' ∧ cs ≠ [] then none else digitsValue 10 digitValue 0 (c :: cs)

/-- A number that fits an 8-bit operand. -/
def parseByte (t : List Char) : Option Byte :=
  match parseNat t with
  | some n => if n < 2 ^ 8 then some (BitVec.ofNat 8 n) else none
  | none => none

/-- A channel: `AIN0` to the last input (`AIN7`), `AINCOM`, or a number that fits a channel operand (R104). -/
def parseChannel (cp : ChipParams) (t : List Char) : Option Nat :=
  match t with
  | ['A', 'I', 'N', 'C', 'O', 'M'] => some cp.chCom
  | 'A' :: 'I' :: 'N' :: rest => (parseIndex rest).bind fun k => if k < cp.nAin then some k else none
  | _ => (parseNat t).bind fun k => if k < 2 ^ cp.chW then some k else none

/-- A gain: `G1`, `G2`, … `G64` for the indices 0 to 6 (R92, R104), in no other spelling (`G01`, `G016` and `G0x10` are
none), or a gain index (log entry 14). -/
def parseGain (cp : ChipParams) (t : List Char) : Option Byte :=
  match t with
  | 'G' :: rest =>
    (parseIndex rest).bind fun x =>
      if x ∈ cp.gains then ((List.range 8).find? fun g => decide (2 ^ g = x)).map fun g => BitVec.ofNat 8 g else none
  | _ => parseByte t

/-- A rate: `SPS<rate>` by the entry of that name, or a rate index (R104). -/
def parseRate (rates : List RateEntry) (t : List Char) : Option Byte :=
  match t with
  | 'S' :: 'P' :: 'S' :: rest =>
    (rates.findIdx? fun e => decide (e.name.toList = rest)).bind fun k =>
      if k < 2 ^ 8 then some (BitVec.ofNat 8 k) else none
  | _ => parseByte t

/-- An `i32` code: a number of the range of an `i32`, with an optional minus sign. The spec says only that numbers are
decimal, or hex with `0x` (R104). That a minus sign may stand before either, and that a hex number is a value and no bit
pattern, so that `0xFF800000` and every other number from `0x80000000` on is rejected, is the model's choice (log entry
14). -/
def parseCode (t : List Char) : Option Code32 :=
  match t with
  | '-' :: rest => (parseNat rest).bind fun n => if n ≤ 2 ^ 31 then some (BitVec.ofInt 32 (-(n : Int))) else none
  | _ => (parseNat t).bind fun n => if n < 2 ^ 31 then some (BitVec.ofNat 32 n) else none

/-- A reference voltage: a decimal numeral with an optional sign and fraction, as the nearest binary64 value, or a
64-bit pattern in hex (log entry 14). -/
def parseVref (t : List Char) : Option F64 :=
  match t with
  | '0' :: 'x' :: c :: cs =>
    (digitsValue 16 hexDigitValue 0 (c :: cs)).bind fun n => if n < 2 ^ 64 then some (BitVec.ofNat 64 n) else none
  | _ =>
    let neg := decide (t.head? = some '-')
    let u := if neg then t.tail else t
    let whole := u.takeWhile fun c => decide (c ≠ '.')
    let frac := (u.dropWhile fun c => decide (c ≠ '.')).tail
    if whole = [] then none
    else
      (digitsValue 10 digitValue 0 (whole ++ frac)).map fun n => f64OfRatio neg n (10 ^ frac.length)

/-- Splits at a character. -/
def splitAtChar (sep : Char) : List Char → List (List Char)
  | [] => [[]]
  | c :: cs =>
    if c = sep then [] :: splitAtChar sep cs
    else
      match splitAtChar sep cs with
      | [] => [[c]]
      | t :: ts => (c :: t) :: ts

/-- A mnemonic and its operands, without the spaces around them (log entry 14). -/
def splitLine (line : List Char) : List Char × List (List Char) :=
  let rest := (line.dropWhile fun c => decide (c ≠ ' ')).filter fun c => decide (c ≠ ' ')
  (line.takeWhile fun c => decide (c ≠ ' '), if rest = [] then [] else splitAtChar ',' rest)

/-- Two operands, each by its own reader. -/
def bothOf {α β γ : Type} (f : α → β → γ) (a : Option α) (b : Option β) : Option γ :=
  a.bind fun x => b.map fun y => f x y

/-- One line of assembly (R104, R105). -/
def assemble (ps : Params) (line : List Char) : Option Instr :=
  let mnemonic := (splitLine line).1
  match (splitLine line).2 with
  | [] =>
    if mnemonic = "ENCSYNCWAKE".toList then some .encsyncwake
    else if mnemonic = "ENCRDATA".toList then some .encrdata
    else none
  | [a] =>
    if mnemonic = "VOLTS".toList then (parseCode a).map .volts
    else if mnemonic = "READSE".toList then (parseChannel ps.chip a).map .readse
    else if mnemonic = "MUXSE".toList then (parseChannel ps.chip a).map .muxse
    else none
  | [a, b] =>
    if mnemonic = "INIT".toList then bothOf .init (parseRate ps.rates a) (parseGain ps.chip b)
    else if mnemonic = "SETCFG".toList then bothOf .setcfg (parseRate ps.rates a) (parseGain ps.chip b)
    else if mnemonic = "READ".toList then bothOf .read (parseChannel ps.chip a) (parseChannel ps.chip b)
    else if mnemonic = "ENCWREG".toList then bothOf .encwreg (parseByte a) (parseByte b)
    else if mnemonic = "ENCMUX".toList then bothOf .encmux (parseChannel ps.chip a) (parseChannel ps.chip b)
    else none
  | [a, b, c] =>
    if mnemonic = "SCALE".toList then
      (parseCode a).bind fun x => bothOf (Instr.scale x) (parseGain ps.chip b) (parseVref c)
    else if mnemonic = "DECODE".toList then
      (parseByte a).bind fun x => bothOf (Instr.decode x) (parseByte b) (parseByte c)
    else none
  | _ => none

end Sys2Proof.Machine
end

