-- ==== Sys2Proof/WellFormed.lean ====
section
/-! DEFINITION. Well-formed instructions: the terms that are the model's ONE name of their words. A chip frame's operands
are in the range its rule gives (R84, R85: only such frames exist). A host operand may have any value of its width (8 bits, `CH_W` for a channel index): one
that is out of range is answered with `ConfigError` when the operation runs (R97), it is not an ill-formed request. Where
two rows of the table share words, the narrower row names them (log entry 9): MUXSEL and not WREG for a write of MUX with
two channel nibbles, READSE and MUXSE and not READ and ENCMUX for the negative channel AINCOM. -/

namespace Sys2Proof

/-- The check, constructor by constructor. -/
def Instr.wellFormed (cp : ChipParams) : Instr → Bool
  | .wreg r v => decide (r.toNat ≤ cp.regMax) && !(decide (r = muxReg) && isMuxCode cp v)
  | .muxsel p n => isChannel cp p.toNat && isChannel cp n.toNat
  | .sync => true
  | .wakeup => true
  | .rdata => true
  | .dataread => true
  | .init _ _ => true
  | .setcfg _ _ => true
  | .read p n => decide (p < 2 ^ cp.chW) && decide (n < 2 ^ cp.chW) && decide (n ≠ cp.chCom)
  | .volts _ => true
  | .scale _ _ _ => true
  | .encwreg _ _ => true
  | .encmux p n => decide (p < 2 ^ cp.chW) && decide (n < 2 ^ cp.chW) && decide (n ≠ cp.chCom)
  | .decode _ _ _ => true
  | .encsyncwake => true
  | .encrdata => true
  | .readse p => decide (p < 2 ^ cp.chW)
  | .muxse p => decide (p < 2 ^ cp.chW)

end Sys2Proof
end

