-- ==== Sys2Proof/Safety.lean ====
section
/-! DEFINITION. The terms in which claims are made: views of the trace, the two monitors that say what a well-behaved trace
is, the invariant of the machine, and the meaning of a binary64 pattern as a rational number. -/

namespace Sys2Proof.Machine

/-! ### Views -/

/-- The event trace of device instance `i` (10_state.md R45). -/
def traceOf (i : Nat) (trace : List (Nat × Event)) : List Event :=
  trace.filterMap fun p => if p.1 = i then some p.2 else none

/-- The value that a device instance's trace shows chip register `r` to hold: that of the last successful write. Nothing
is known of it after a failed transfer (20_memory.md R68) or a change of the reset line (R69). -/
def chipReg (cp : ChipParams) (r : Nibble) (events : List Event) : Option Byte :=
  events.foldl (init := none) fun known e =>
    match e with
    | .xfer tx (.rx _) =>
      match decodeChip cp tx with
      | .ok (.wreg r' v) => if r' = r then some v else known
      | .ok (.muxsel p n) => if muxReg = r then some (muxByte p.toNat n.toNat) else known
      | _ => known
    | .xfer _ .transportError => none
    | .rst _ _ => none
    | _ => known

/-- CS was last driven low with success. -/
def Line.isLow : Line → Bool
  | .low => true
  | .high => false
  | .unknown => false

/-- The state with the record of the device instance whose turn it is replaced. -/
def State.putDevice (s : State) (m : Device) : State := { s with devices := s.devices.set s.cur m }

/-- The level that is not `l`. -/
def otherLevel : Level → Level
  | .low => .high
  | .high => .low

/-- `k` data-ready reads at level `l`, each followed by the poll interval (41_sequencer.md R147). -/
def pollEvents (l : Level) (k : Nat) : List Event :=
  (List.replicate k [Event.drdy (.level l), Event.sleep .tPoll]).flatten

/-- The event list of a successful INIT with `k` data-ready reads before the last; `x1`, `x2` are what the two
configuration transfers received (R145). -/
def initEvents (lvl : Level) (k : Nat) (drate g : Byte) (x1 x2 : List Byte) : List Event :=
  [.acq, .cs .high .ok, .rst .low .ok, .sleep .tRst, .rst .high .ok, .sleep .tRst, .sleep .tPwrup] ++
  pollEvents (otherLevel lvl) k ++ [.drdy (.level lvl)] ++
  [.cs .low .ok, .xfer [0x53#8, 0x00#8, drate] (.rx x1), .xfer [0x52#8, 0x00#8, g] (.rx x2), .cs .high .ok, .rel]

/-- The event list of a successful SETCFG (R151). -/
def setcfgEvents (drate g : Byte) (x1 x2 : List Byte) : List Event :=
  [.acq, .cs .low .ok, .xfer [0x53#8, 0x00#8, drate] (.rx x1), .xfer [0x52#8, 0x00#8, g] (.rx x2), .cs .high .ok, .rel]

/-- The events of READ up to its wait (R155, R156). -/
def readOpening (cp : ChipParams) (p n : Nat) (x1 x2 x3 : List Byte) : List Event :=
  [.acq, .cs .low .ok, .xfer [0x51#8, 0x00#8, BitVec.ofNat 8 ((p <<< 4) ||| n)] (.rx x1),
   .xfer [0xFC#8] (.rx x2), .sleep .tSync, .xfer [cp.wakeupByte] (.rx x3)]

/-- The event list of a READ whose data-ready line was high on all of `N` reads: the wait, then the cleanup (R161, R215). -/
def readTimeoutEvents (cp : ChipParams) (p n : Nat) (N : Nat) (x1 x2 x3 : List Byte) : List Event :=
  readOpening cp p n x1 x2 x3 ++ pollEvents .high (N - 1) ++ [.drdy (.level .high), .cs .high .ok, .rel]

/-- The event list of a successful READ with `k` data-ready reads before the last, and the three received bytes of the
data read (R155, R158). -/
def readEvents (cp : ChipParams) (p n : Nat) (k : Nat) (x1 x2 x3 x4 : List Byte) (b0 b1 b2 : Byte) : List Event :=
  readOpening cp p n x1 x2 x3 ++ pollEvents .high k ++ [.drdy (.level .low)] ++
  [.xfer [0x01#8] (.rx x4), .sleep .tRdata, .xfer [cp.fillByte, cp.fillByte, cp.fillByte] (.rx [b0, b1, b2]),
   .cs .high .ok, .rel]

/-- How every run of a sequencer operation ends that had the lock to itself, whatever the environment answered: `m'` is the
device record after it. The operation is over, the lock is back (R217), CS is not low and is high unless the cleanup
failed (R141, R216); the reference voltage and the requests are as before, `cs_fault` stays set if it was (R39); nothing
else of the machine changed but the trace, which got at most `bound` events of this instance, from `Acq` to `Rel`
(R141, R163). -/
def endedCleanly (s t : State) (m m' : Device) (bound : Nat) : Prop :=
  (∃ es : List Event,
    t = { s with devices := s.devices.set s.cur m', trace := s.trace ++ es.map fun e => (s.cur, e) } ∧
    es.length ≤ bound ∧ es.head? = some .acq ∧ es.getLast? = some .rel) ∧
  m'.op = none ∧ m'.holdsLock = false ∧ m'.csOut ≠ .low ∧ (m'.csFault = false → m'.csOut = .high) ∧
  (m.csFault = true → m'.csFault = true) ∧ m'.vref = m.vref ∧ m'.env.requests = m.env.requests

/-! ### What a trace may hold -/

/-- The frames the block itself sends (30_encoding.md R81, R95, R99): a write of DRATE, of ADCON with a gain code, or of MUX
with two channels, SYNC, WAKEUP, RDATA, and the data read. -/
def blockFrame (cp : ChipParams) (tx : List Byte) : Bool :=
  match decodeChip cp tx with
  | .ok (.wreg r v) => decide (r = drateReg) || (decide (r = adconReg) && validGain cp v)
  | .ok (.muxsel _ _) => true
  | .ok .sync => true
  | .ok .wakeup => true
  | .ok .rdata => true
  | .ok .dataread => true
  | _ => false

/-- The bus monitor: who holds the lock after an event, `none` where the event may not happen. Only the owner acts, and
the lock is taken only when it is free (20_memory.md R73, R74). -/
def busNext (owner : Option Nat) (p : Nat × Event) : Option (Option Nat) :=
  match owner, p.2 with
  | none, .acq => some (some p.1)
  | none, _ => none
  | some _, .acq => none
  | some j, .rel => if p.1 = j then some none else none
  | some j, _ => if p.1 = j then some (some j) else none

/-- The bus monitor over a bus trace. -/
def busRun (trace : List (Nat × Event)) : Option (Option Nat) := trace.foldlM busNext none

/-- How far a chip-select window has come in the frames of a READ (41_sequencer.md R155), by its successful calls. -/
inductive Phase where
  /-- No frame of a READ yet. -/
  | fresh
  /-- The MUX frame was sent. -/
  | muxed
  /-- SYNC was sent. -/
  | synced
  /-- `T_SYNC` was waited after it. -/
  | rested
  /-- WAKEUP was sent. -/
  | woken
  /-- Data-ready was seen low after it. -/
  | ready
  /-- RDATA was sent. -/
  | asked
  /-- `T_RDATA` was waited after it. -/
  | due
  /-- The data was read, or a call failed: no frame follows. -/
  | over
  deriving DecidableEq, Repr

/-- What the monitor of one device instance remembers of its trace. -/
structure Mon where
  /-- The lock is held. -/
  held : Bool
  /-- CS was last driven low with success. -/
  low : Bool
  /-- The power-up delay was waited for after the last change of the reset line (70_reset_and_hazards.md R245). -/
  settled : Bool
  /-- The reset line has just got a level, which is yet to be held for `T_RST` (R244). -/
  resting : Bool
  /-- The frames of the chip-select window so far. -/
  phase : Phase
  deriving DecidableEq, Repr

/-- Before any event. -/
def Mon.start : Mon := { held := false, low := false, settled := false, resting := false, phase := .fresh }

/-- The phase after a frame was sent with success, `none` where the frame may not be sent: the configuration writes in a
window of their own (41_sequencer.md R148), the frames of a READ in their order (R155), with their delays (R250) and
data-ready between them (R246), nothing else (30_encoding.md R99). -/
def Phase.afterFrame (cp : ChipParams) (φ : Phase) (tx : List Byte) : Option Phase :=
  match decodeChip cp tx, φ with
  | .ok (.wreg r v), .fresh => if r = drateReg ∨ (r = adconReg ∧ validGain cp v = true) then some .fresh else none
  | .ok (.muxsel _ _), .fresh => some .muxed
  | .ok .sync, .muxed => some .synced
  | .ok .wakeup, .rested => some .woken
  | .ok .rdata, .ready => some .asked
  | .ok .dataread, .due => some .over
  | _, _ => none

/-- The phase after a sleep: the delay that the last frame asks for, or any other where none is asked for (R250, R147). -/
def Phase.afterSleep (φ : Phase) (d : Duration) : Option Phase :=
  match φ with
  | .fresh => if d = .tSync ∨ d = .tRdata then none else some .fresh
  | .synced => if d = .tSync then some .rested else none
  | .woken => if d = .tPoll then some .woken else none
  | .asked => if d = .tRdata then some .due else none
  | _ => none

/-- The phase after a level of the data-ready line was read: a wait is outside a READ's window or after its WAKEUP. -/
def Phase.afterLevel (φ : Phase) (l : Level) : Option Phase :=
  match φ, l with
  | .fresh, _ => some .fresh
  | .woken, .low => some .ready
  | .woken, .high => some .woken
  | _, _ => none

/-- A wait reads the data-ready line. -/
def Phase.polls (φ : Phase) : Bool := decide (φ = .fresh) || decide (φ = .woken)

/-- A frame may be sent in a chip-select window (41_sequencer.md R141), after the power-up delay (R245). -/
def Mon.admits (μ : Mon) : Bool := μ.held && μ.low && μ.settled

/-- The monitor of one device instance, when no level of the reset line is being held; `none` where the event may not
happen (R141, R143, R245, R246, R248, R250). -/
def Mon.free (cp : ChipParams) (μ : Mon) (e : Event) : Option Mon :=
  match e with
  | .acq => if μ.held then none else some { μ with held := true, phase := .fresh }
  | .rel => if μ.held && !μ.low then some { μ with held := false } else none
  | .cs .low .ok => if μ.held then some { μ with low := true, phase := .fresh } else none
  | .cs _ _ => if μ.held then some { μ with low := false, phase := .fresh } else none
  | .rst _ .ok => if μ.held && !μ.low then some { μ with settled := false, resting := true } else none
  | .rst _ .gpioError => if μ.held && !μ.low then some { μ with settled := false } else none
  | .sleep d =>
    if μ.held then (μ.phase.afterSleep d).map fun φ => { μ with settled := μ.settled || decide (d = .tPwrup), phase := φ }
    else none
  | .xfer tx (.rx _) => if μ.admits then (μ.phase.afterFrame cp tx).map fun φ => { μ with phase := φ } else none
  | .xfer tx .transportError =>
    if μ.admits then (μ.phase.afterFrame cp tx).map fun _ => { μ with phase := .over } else none
  | .drdy (.level l) => if μ.held then (μ.phase.afterLevel l).map fun φ => { μ with phase := φ } else none
  | .drdy .gpioError => if μ.held && μ.phase.polls then some { μ with phase := .over } else none

/-- The monitor of one device instance: where a level of the reset line is to be held, only that sleep may come (R244). -/
def Mon.next (cp : ChipParams) (μ : Mon) (e : Event) : Option Mon :=
  if μ.resting then (if μ.held = true ∧ e = .sleep .tRst then some { μ with resting := false } else none) else μ.free cp e

/-- The monitor over the trace of one device instance. -/
def Mon.run (cp : ChipParams) (events : List Event) : Option Mon := events.foldlM (Mon.next cp) Mon.start

/-! ### The invariant -/

/-- What success of a port call does to `fsm` and to whether the configuration is cached. -/
def Effect.track (e : Effect) (f : Fsm) (cached : Bool) : Fsm × Bool :=
  match e with
  | .nothing => (f, cached)
  | .enterReset => (.reset, cached)
  | .enterConverting => (.converting, cached)
  | .commit _ _ => (.configured, true)
  | .enterIdle => (.idle, cached)
  | .keepData => (f, cached)

/-- A commit writes only legal indices (R47). -/
def Effect.legal (ps : Params) (e : Effect) : Bool :=
  match e with
  | .commit r g => (rateAt ps r).isSome && validGain ps.chip g
  | .nothing => true
  | .enterReset => true
  | .enterConverting => true
  | .enterIdle => true
  | .keepData => true

/-- The event by which a port call goes on: its success, and of a wait the read that ends it. -/
def PortCall.success : PortCall → Event
  | .acquire => .acq
  | .setCS l _ => .cs l .ok
  | .setRST l => .rst l .ok
  | .sleep d _ => .sleep d
  | .transfer tx _ => .xfer tx (.rx [])
  | .readDRDY l _ => .drdy (.level l)
  | .pollSleep l _ => .drdy (.level l)
  | .cleanupCS => .cs .high .ok
  | .release _ => .rel

/-- The write of state that belongs to a port call's success. -/
def PortCall.effect : PortCall → Effect
  | .acquire => .nothing
  | .setCS _ e => e
  | .setRST _ => .nothing
  | .sleep _ e => e
  | .transfer _ e => e
  | .readDRDY _ _ => .nothing
  | .pollSleep _ _ => .nothing
  | .cleanupCS => .nothing
  | .release _ => .nothing

/-- A wait polls where another level than the awaited one changes nothing: outside a READ's window, or for the low level
after its WAKEUP. -/
def Phase.waits (φ : Phase) (l : Level) : Bool := decide (φ = .fresh) || (decide (φ = .woken) && decide (l = .low))

/-- What a port call needs beside the monitor's leave. -/
def PortCall.placed (φ : Phase) : PortCall → Bool
  | .acquire => true
  | .setCS _ _ => true
  | .setRST _ => true
  | .sleep _ _ => true
  | .transfer _ _ => true
  | .readDRDY l _ => φ.waits l
  | .pollSleep l _ => φ.waits l
  | .cleanupCS => true
  | .release _ => true

/-- A list of port calls that keeps the rules from where the monitor, `fsm` and the cache stand, if every call succeeds:
no call breaks the discipline of the trace, the list ends in its one `Release`, and an operation that ends OK leaves a
steady state with a cached configuration. -/
def planOk (ps : Params) : Mon → Fsm → Bool → List PortCall → Bool
  | _, _, _, [] => false
  | μ, f, c, .release st :: rest =>
    (μ.next ps.chip .rel).isSome && rest.isEmpty && (decide (st ≠ .ok) || (f.operating && c && μ.settled))
  | μ, f, c, call :: rest =>
    match μ.next ps.chip call.success with
    | none => false
    | some μ' =>
      call.placed μ.phase && call.effect.legal ps && planOk ps μ' (call.effect.track f c).1 (call.effect.track f c).2 rest

/-- A call that leaves the reset line alone. -/
def PortCall.keepsReset : PortCall → Bool
  | .setRST _ => false
  | .acquire => true
  | .setCS _ _ => true
  | .sleep _ _ => true
  | .transfer _ _ => true
  | .readDRDY _ _ => true
  | .pollSleep _ _ => true
  | .cleanupCS => true
  | .release _ => true

/-- `op` fits the rest of the record: between operations the lock is not held and `fsm` is steady, with a cache exactly
where it is not `Uninitialized` (R34, R164); in an operation what is left of it keeps the rules, and a READ has a cached
configuration and does not touch the reset line. -/
def opOk (ps : Params) (μ : Mon) (m : Device) : Prop :=
  match m.op with
  | none =>
    m.holdsLock = false ∧ μ.resting = false ∧ (m.fsm = .uninitialized ∨ m.fsm.operating = true) ∧
      m.cfgRate.isSome = m.fsm.operating ∧ (m.fsm.operating = true → μ.settled = true)
  | some o =>
    planOk ps μ m.fsm m.cfgRate.isSome o.rest = true ∧
      (∀ p n, o.operation = .read p n →
        m.cfgRate.isSome = true ∧ μ.settled = true ∧ o.rest.all PortCall.keepsReset = true)

/-- One device record and its trace: the cache holds legal indices or nothing (R34, R47), the reference voltage is not
degenerate (R242), the trace keeps the rules and shows the lock and CS as the record has them, and `op` fits. -/
def deviceOk (ps : Params) (m : Device) (events : List Event) : Prop :=
  m.cfgRate.isSome = m.cfgGain.isSome ∧
  (∀ r, m.cfgRate = some r → (rateAt ps r).isSome = true) ∧
  (∀ g, m.cfgGain = some g → validGain ps.chip g = true) ∧
  validVref m.vref = true ∧
  ∃ μ, Mon.run ps.chip events = some μ ∧ μ.held = m.holdsLock ∧ μ.low = m.csOut.isLow ∧ opOk ps μ m

/-- The parameters are as the platform must set them (R242 item 4), and those of the chip make its frames readable. -/
def paramsOk (ps : Params) : Prop :=
  ps.chip.legal = true ∧ ps.rates ≠ [] ∧ 1 ≤ ps.initPolls ∧ ∀ e ∈ ps.rates, 1 ≤ e.maxPolls

/-- The invariant of the machine: legal parameters; the lock is held by its owner and by no one else (R37, R42); every
device record and its trace fit; on the bus no operation's events fall between another's (R73). -/
def Inv (s : State) : Prop :=
  paramsOk s.params ∧
  (∀ i m, s.devices[i]? = some m → (m.holdsLock = true ↔ s.busOwner = some i)) ∧
  (∀ i m, s.devices[i]? = some m → deviceOk s.params m (traceOf i s.trace)) ∧
  (∀ i, s.busOwner = some i → i < s.devices.length) ∧
  busRun s.trace = some s.busOwner

/-! ### Binary64 patterns as numbers -/

/-- The rational number a finite binary64 pattern stands for. -/
def f64Value (x : F64) : ℚ := (if f64Sign x then -1 else 1) * (f64Mant x : ℚ) * (2 : ℚ) ^ f64Scale x

/-- `r` is `RNE64(x)` (00_scope.md R14): the finite value nearest to `x`, with an even significand where another is as
near, and with the sign of `x` unless `x` is 0. -/
def IsRne (x : ℚ) (r : F64) : Prop :=
  f64Finite r = true ∧
  (∀ y, f64Finite y = true →
    |x - f64Value r| ≤ |x - f64Value y| ∧
    (|x - f64Value r| = |x - f64Value y| → f64Value y ≠ f64Value r → f64Mant r % 2 = 0)) ∧
  (x < 0 → f64Sign r = true) ∧
  (0 < x → f64Sign r = false)

/-- The reference voltages of 42_voltage.md R191: `2^-990 ≤ vref ≤ 2^1000`. -/
def ordinaryVref (v : F64) : Prop :=
  validVref v = true ∧ (2 : ℚ) ^ (-990 : Int) ≤ f64Value v ∧ f64Value v ≤ (2 : ℚ) ^ (1000 : Int)

end Sys2Proof.Machine
end

