-- ==== Sys2Proof/Certificates/Slice0/Obligations.lean ====
section
/-! DEFINITION. The statements for the provers, from the numbered rules of the spec. A sentence of this kind stands at
each: which rule it formalises, or what it is derived from. `s.devices[s.cur]? = some m` says that it is the turn of the
device instance with record `m`; a statement with that premise says what happens to it and, by an equation for the whole
next state, that nothing else changes. Whose turn it is (`cur`, `turns`, `ticks`: log entry 3) and the queues of the
environment's answers with their count (`env`, `drawn`: log entry 2) are the model's own choice, wherever they stand below. -/

open Sys2Proof Sys2Proof.Machine

/-! ### Codec (40_codec.md) -/

/-- R120: ENCWREG answers the WREG frame, or `ConfigError` for a register address above `REG_MAX`, which the spec decides to
be 0x0A; nothing else changes. -/
def Obligations.EncwregReturnsTheFrame : Prop :=
  ∀ (s : State) (m : Device) (r v : Byte), s.devices[s.cur]? = some m →
    exec (.encwreg r v) s = .next (s.putDevice (m.respond
      (if r.toNat ≤ s.params.chip.regMax then [0x00#8, 0x50#8 ||| (r.extractLsb' 0 4).setWidth 8, 0x00#8, v]
       else [0x04#8]))) ∧
    (s.params.chip = ChipParams.default →
      exec (.encwreg r v) s = .next (s.putDevice (m.respond
        (if r.toNat ≤ 0x0A then [0x00#8, 0x50#8 ||| r, 0x00#8, v] else [0x04#8]))))

/-- R121: ENCMUX answers the mux byte, or `ConfigError` for an index that names no channel; MUXSE does so with AINCOM. With
the parameters of R8 the indices that name channels are those up to 8, and AINCOM is 8. -/
def Obligations.EncmuxReturnsTheMuxByte : Prop :=
  ∀ (s : State) (m : Device) (p n : Nat), s.devices[s.cur]? = some m →
    exec (.encmux p n) s = .next (s.putDevice (m.respond
      (if isChannel s.params.chip p = true ∧ isChannel s.params.chip n = true then [0x00#8, BitVec.ofNat 8 ((p <<< 4) ||| n)]
       else [0x04#8]))) ∧
    exec (.muxse p) s = exec (.encmux p s.params.chip.chCom) s ∧
    (s.params.chip = ChipParams.default →
      exec (.encmux p n) s = .next (s.putDevice (m.respond
        (if p ≤ 8 ∧ n ≤ 8 then [0x00#8, BitVec.ofNat 8 ((p <<< 4) ||| n)] else [0x04#8]))) ∧
      exec (.muxse p) s = .next (s.putDevice (m.respond
        (if p ≤ 8 then [0x00#8, BitVec.ofNat 8 ((p <<< 4) ||| 8)] else [0x04#8]))))

/-- R122: DECODE answers the sign-extended big-endian 24-bit value, for every three bytes. -/
def Obligations.DecodeSignExtends : Prop :=
  ∀ (s : State) (m : Device) (b0 b1 b2 : Byte), s.devices[s.cur]? = some m →
    exec (.decode b0 b1 b2) s =
      .next (s.putDevice (m.respond (0x00#8 :: bytesOf32 ((b0 ++ b1 ++ b2).signExtend 32))))

/-- R123, R124: ENCSYNCWAKE and ENCRDATA answer their constant bytes; the second byte of the first is `WAKEUP_BYTE`, which the
spec decides to be 0x00. -/
def Obligations.FixedFramesAreReturned : Prop :=
  ∀ (s : State) (m : Device), s.devices[s.cur]? = some m →
    exec .encsyncwake s = .next (s.putDevice (m.respond [0x00#8, 0xFC#8, s.params.chip.wakeupByte])) ∧
    exec .encrdata s = .next (s.putDevice (m.respond [0x00#8, 0x01#8])) ∧
    (s.params.chip = ChipParams.default →
      exec .encsyncwake s = .next (s.putDevice (m.respond [0x00#8, 0xFC#8, 0x00#8])))

/-- Derived from R119, R190 (frame): a pure operation, in every `fsm` state, answers one response frame and changes nothing
else: no event, no lock, no other device instance, no field of its own record but the responses. -/
def Obligations.PureOperationsOnlyAnswer : Prop :=
  ∀ (s : State) (m : Device) (r v b0 b1 b2 g : Byte) (p n : Nat) (c : Code32) (x : F64), s.devices[s.cur]? = some m →
    ∀ i ∈ [Instr.encwreg r v, .encmux p n, .muxse p, .decode b0 b1 b2, .encsyncwake, .encrdata, .scale c g x],
      ∃ frame, exec i s = .next (s.putDevice (m.respond frame)) ∧
        (s.putDevice (m.respond frame)).trace = s.trace ∧
        (s.putDevice (m.respond frame)).busOwner = s.busOwner ∧
        m.respond frame = { m with env := { m.env with responses := m.env.responses ++ [frame] } }

/-- R125: on valid pairs the mux code is `16·pos + neg`, gives both indices back, and is injective. -/
def Obligations.MuxCodeIsExact : Prop :=
  ∀ p n : Nat, p ≤ 8 → n ≤ 8 →
    (muxByte p n).toNat = 16 * p + n ∧
    ((muxByte p n).extractLsb' 4 4).toNat = p ∧
    ((muxByte p n).extractLsb' 0 4).toNat = n ∧
    ∀ p' n' : Nat, p' ≤ 8 → n' ≤ 8 → muxByte p' n' = muxByte p n → p' = p ∧ n' = n

/-- R127: decoding the three bytes of a 24-bit pattern gives its sign extension, and every code of the range survives the
way to three bytes and back. -/
def Obligations.ConversionCodeRoundTrip : Prop :=
  (∀ u : Code24, codeOfRx (bytesOf24 u) = some u ∧ code32Of24 u = u.signExtend 32) ∧
  (∀ c : Int, -(2 ^ 23) ≤ c → c < 2 ^ 23 →
    codeOfRx (bytesOf24 (BitVec.ofInt 24 c)) = some (BitVec.ofInt 24 c) ∧
    codeOf24 (BitVec.ofInt 24 c) = c ∧ (code32Of24 (BitVec.ofInt 24 c)).toInt = c)

/-- Derived from R105: the pseudo-operations are READ and ENCMUX with AINCOM, in meaning and in words. -/
def Obligations.PseudoOperationsExpand : Prop :=
  ∀ (s : State) (cp : ChipParams) (ch : Nat),
    exec (.readse ch) s = exec (.read ch s.params.chip.chCom) s ∧
    exec (.muxse ch) s = exec (.encmux ch s.params.chip.chCom) s ∧
    encode cp (.readse ch) = encode cp (.read ch cp.chCom) ∧ encode cp (.muxse ch) = encode cp (.encmux ch cp.chCom)

/-! ### Scalar (42_voltage.md) -/

/-- Derived from R190: SCALE is the three binary64 operations of its formula in their order, each rounded once to nearest,
ties to even (`a` of the code, `b` of the reference, `r` of their product; a product takes the sign of its factors);
`ConfigError` for a gain index of no gain (with the gains of R8: above 6, see DecidedParameters) or a reference that is
NaN, infinite or not above 0. (That the value nearest to a product past the largest finite one is the largest finite one
is the model's reading of R14 with R195, log entry 8.) -/
def Obligations.ScaleRoundsEachOperation : Prop :=
  ∀ (s : State) (m : Device) (c : Code32) (g : Byte) (vref : F64), s.devices[s.cur]? = some m →
    ((validGain s.params.chip g = true ∧ f64Finite vref = true ∧ 0 < f64Value vref) →
      ∃ a b r : F64,
        f64Value a = (c.toInt : ℚ) / 2 ^ 23 ∧ f64Sign a = decide (c.toInt < 0) ∧
        IsRne (f64Value vref / 2 ^ g.toNat) b ∧ f64Sign b = false ∧
        IsRne (f64Value a * f64Value b) r ∧ f64Sign r = (f64Sign a ^^ f64Sign b) ∧
        exec (.scale c g vref) s = .next (s.putDevice (m.respond (0x00#8 :: bytesOf64 r)))) ∧
    (¬(validGain s.params.chip g = true ∧ f64Finite vref = true ∧ 0 < f64Value vref) →
      exec (.scale c g vref) s = .next (s.putDevice (m.respond [0x04#8])))

/-- R191: for an ordinary reference both divisions are exact, the result is the binary64 value nearest to the exact quotient,
neither infinite nor subnormal, and it is that quotient where `code · vref` is a binary64 value. -/
def Obligations.ScaleIsNearestToTheQuotient : Prop :=
  ∀ (s : State) (m : Device) (c : Code32) (g : Byte) (vref : F64), s.devices[s.cur]? = some m →
    validGain s.params.chip g = true → g.toNat ≤ 6 → ordinaryVref vref →
    f64Value (f64DivPow2 (f64OfCode c) 23) = (c.toInt : ℚ) / 2 ^ 23 ∧
    f64Value (f64DivPow2 vref g.toNat) = f64Value vref / 2 ^ g.toNat ∧
    ∃ r : F64,
      exec (.scale c g vref) s = .next (s.putDevice (m.respond (0x00#8 :: bytesOf64 r))) ∧
      f64Finite r = true ∧ (f64Exp r = 0 → c = 0#32) ∧
      IsRne ((c.toInt : ℚ) * f64Value vref / 2 ^ (23 + g.toNat)) r ∧
      ((∃ y : F64, f64Finite y = true ∧ f64Value y = (c.toInt : ℚ) * f64Value vref) →
        f64Value r = (c.toInt : ℚ) * f64Value vref / 2 ^ (23 + g.toNat))

/-- Derived from R193, in the range of R191: code `−2^23` maps to exactly −full-scale, code 0 to +0.0, and code
`2^23 − 1` to the value nearest to `(vref / 2^g)(1 − 2^−23)`, below full scale. -/
def Obligations.FullScaleCodes : Prop :=
  ∀ (cp : ChipParams) (g : Byte) (vref : F64), validGain cp g = true → g.toNat ≤ 6 → ordinaryVref vref →
    (∃ r, scaleCode cp (BitVec.ofInt 32 (-(2 ^ 23))) g vref = some r ∧ f64Value r = -(f64Value vref / 2 ^ g.toNat)) ∧
    scaleCode cp 0#32 g vref = some 0x0000000000000000#64 ∧
    (∃ r, scaleCode cp (BitVec.ofInt 32 (2 ^ 23 - 1)) g vref = some r ∧
      IsRne (f64Value vref / 2 ^ g.toNat * (1 - 1 / 2 ^ 23)) r ∧ f64Value r < f64Value vref / 2 ^ g.toNat)

/-- R194: in the range of R191, doubling the gain halves the result exactly. -/
def Obligations.DoublingTheGainHalvesTheVoltage : Prop :=
  ∀ (cp : ChipParams) (c : Code32) (g : Byte) (vref : F64), validGain cp g = true → validGain cp (g + 1#8) = true →
    g.toNat ≤ 5 → ordinaryVref vref →
    ∃ r r', scaleCode cp c g vref = some r ∧ scaleCode cp c (g + 1#8) vref = some r' ∧ f64Value r' = f64Value r / 2

/-- Derived from R196: for every reference and gain index that SCALE accepts it is non-decreasing in the code. (Past the
largest finite value by log entry 8.) -/
def Obligations.ScaleIsMonotone : Prop :=
  ∀ (cp : ChipParams) (c c' : Code32) (g : Byte) (vref r r' : F64),
    scaleCode cp c g vref = some r → scaleCode cp c' g vref = some r' → c.toInt ≤ c'.toInt → f64Value r ≤ f64Value r'

/-- Derived from R195: SCALE rejects a reference that is NaN, infinite, zero or negative, and no result is NaN or infinite,
for every code, gain index and reference; nor is one of VOLTS. (Which value stands past the largest finite one: log entry
8.) -/
def Obligations.ScaleResultsAreNumbers : Prop :=
  (∀ (cp : ChipParams) (c : Code32) (g : Byte) (vref : F64),
    (f64Finite vref = false ∨ f64Value vref ≤ 0 → scaleCode cp c g vref = none) ∧
    ∀ r, scaleCode cp c g vref = some r → f64Finite r = true) ∧
  (∀ (s t : State) (m m' : Device) (c : Code32) (x : F64), s.devices[s.cur]? = some m → exec (.volts c) s = .next t →
    t.devices[s.cur]? = some m' → m'.env.responses = m.env.responses ++ [0x00#8 :: bytesOf64 x] → f64Finite x = true)

/-- Derived from R192: VOLTS is SCALE with the cached gain and the reference of the device instance, answers OK where these
are legal as the invariant has them, and is refused outside `Configured` and `Idle` or with no cached gain. -/
def Obligations.VoltsIsScaleWithTheCachedGain : Prop :=
  ∀ (s : State) (m : Device) (c : Code32), s.devices[s.cur]? = some m →
    (∀ g, (m.fsm = .configured ∨ m.fsm = .idle) → m.cfgGain = some g →
      exec (.volts c) s = exec (.scale c g m.vref) s ∧
      (validGain s.params.chip g = true → validVref m.vref = true →
        ∃ r, scaleCode s.params.chip c g m.vref = some r ∧
          exec (.volts c) s = .next (s.putDevice (m.respond (0x00#8 :: bytesOf64 r))))) ∧
    (¬(m.fsm = .configured ∨ m.fsm = .idle) → exec (.volts c) s = .refused (.wrongState m.fsm)) ∧
    ((m.fsm = .configured ∨ m.fsm = .idle) → m.cfgGain = none → exec (.volts c) s = .refused .cacheEmpty)

/-! ### Sequencer: what success does (41_sequencer.md) -/

/-- Derived from R145, R147, R148, R149 (result and frame): INIT with a free bus and an environment that lets every call
succeed, data-ready at the awaited level on read `k + 1`. -/
def Obligations.InitConfigures : Prop :=
  ∀ (s : State) (m : Device) (r g : Byte) (e : RateEntry) (k : Nat) (a0 a1 a2 c0 c1 c2 : Byte)
    (css rsts : List LineAnswer) (ds : List DrdyAnswer) (xs : List XferAnswer),
    s.devices[s.cur]? = some m → m.op = none →
    (m.fsm = .uninitialized ∨ m.fsm = .configured ∨ m.fsm = .idle) →
    s.params.rates[r.toNat]? = some e → validGain s.params.chip g = true → s.busOwner = none → k < s.params.initPolls →
    m.env.csAnswers = .ok :: .ok :: .ok :: css → m.env.rstAnswers = .ok :: .ok :: rsts →
    m.env.drdyAnswers =
      List.replicate k (.level (otherLevel s.params.initDrdyLevel)) ++ .level s.params.initDrdyLevel :: ds →
    m.env.xferAnswers = .rx a0 a1 a2 :: .rx c0 c1 c2 :: xs →
    exec (.init r g) s = .next
      { s with
        devices := s.devices.set s.cur
          { m with
            fsm := .configured, cfgRate := some r, cfgGain := some g, csOut := .high, rstOut := .high,
            holdsLock := false, pollCount := k + 1, op := none
            env := { m.env with
              responses := m.env.responses ++ [[0x00#8]], csAnswers := css, rstAnswers := rsts, drdyAnswers := ds,
              xferAnswers := xs, drawn := m.env.drawn + (k + 8) } }
        trace := s.trace ++
          (initEvents s.params.initDrdyLevel k e.drate g [a0, a1, a2] [c0, c1, c2]).map fun ev => (s.cur, ev) }

/-- Derived from R148, R151, R152 (result and frame): SETCFG with a free bus and every call successful. It sends both
frames whatever is cached (R153). -/
def Obligations.SetcfgReconfigures : Prop :=
  ∀ (s : State) (m : Device) (r g : Byte) (e : RateEntry) (a0 a1 a2 c0 c1 c2 : Byte)
    (css : List LineAnswer) (xs : List XferAnswer),
    s.devices[s.cur]? = some m → m.op = none → (m.fsm = .configured ∨ m.fsm = .idle) →
    s.params.rates[r.toNat]? = some e → validGain s.params.chip g = true → s.busOwner = none →
    m.env.csAnswers = .ok :: .ok :: css → m.env.xferAnswers = .rx a0 a1 a2 :: .rx c0 c1 c2 :: xs →
    exec (.setcfg r g) s = .next
      { s with
        devices := s.devices.set s.cur
          { m with
            fsm := .configured, cfgRate := some r, cfgGain := some g, csOut := .high, holdsLock := false, op := none
            env := { m.env with
              responses := m.env.responses ++ [[0x00#8]], csAnswers := css, xferAnswers := xs,
              drawn := m.env.drawn + 4 } }
        trace := s.trace ++ (setcfgEvents e.drate g [a0, a1, a2] [c0, c1, c2]).map fun ev => (s.cur, ev) }

/-- Derived from R155 to R159 (result and frame): READ with a free bus and every call successful, data-ready low on read
`k + 1`, answers the sign-extended code of the three bytes; READSE does so with AINCOM. -/
def Obligations.ReadReturnsTheCode : Prop :=
  ∀ (s : State) (m : Device) (p n : Nat) (r : Byte) (e : RateEntry) (k : Nat)
    (x0 x1 x2 y0 y1 y2 z0 z1 z2 w0 w1 w2 b0 b1 b2 : Byte)
    (css : List LineAnswer) (ds : List DrdyAnswer) (xs : List XferAnswer),
    s.devices[s.cur]? = some m → m.op = none → (m.fsm = .configured ∨ m.fsm = .idle) →
    m.cfgRate = some r → s.params.rates[r.toNat]? = some e →
    isChannel s.params.chip p = true → isChannel s.params.chip n = true →
    s.busOwner = none → k < e.maxPolls →
    m.env.csAnswers = .ok :: .ok :: css →
    m.env.drdyAnswers = List.replicate k (.level .high) ++ .level .low :: ds →
    m.env.xferAnswers =
      .rx x0 x1 x2 :: .rx y0 y1 y2 :: .rx z0 z1 z2 :: .rx w0 w1 w2 :: .rx b0 b1 b2 :: xs →
    (exec (.read p n) s = .next
      { s with
        devices := s.devices.set s.cur
          { m with
            fsm := .idle, csOut := .high, holdsLock := false, pollCount := k + 1, op := none
            env := { m.env with
              responses := m.env.responses ++ [0x00#8 :: bytesOf32 ((b0 ++ b1 ++ b2).signExtend 32)],
              csAnswers := css, drdyAnswers := ds, xferAnswers := xs, drawn := m.env.drawn + (k + 8) } }
        trace := s.trace ++
          (readEvents s.params.chip p n k [x0, x1, x2] [y0] [z0] [w0] b0 b1 b2).map fun ev => (s.cur, ev) }) ∧
    (n = s.params.chip.chCom → exec (.readse p) s = exec (.read p n) s)

/-- Derived from R147, R157, R161, R213, R215: READ with data-ready high on all of `MAX_POLLS` reads answers `Timeout`
after `7 + 2N` events, with CS high and the cache kept. -/
def Obligations.ReadTimesOut : Prop :=
  ∀ (s : State) (m : Device) (p n : Nat) (r : Byte) (e : RateEntry) (x0 x1 x2 y0 y1 y2 z0 z1 z2 : Byte)
    (css : List LineAnswer) (ds : List DrdyAnswer) (xs : List XferAnswer),
    s.devices[s.cur]? = some m → m.op = none → (m.fsm = .configured ∨ m.fsm = .idle) →
    m.cfgRate = some r → s.params.rates[r.toNat]? = some e →
    isChannel s.params.chip p = true → isChannel s.params.chip n = true →
    s.busOwner = none → 1 ≤ e.maxPolls →
    m.env.csAnswers = .ok :: .ok :: css →
    m.env.drdyAnswers = List.replicate e.maxPolls (.level .high) ++ ds →
    m.env.xferAnswers = .rx x0 x1 x2 :: .rx y0 y1 y2 :: .rx z0 z1 z2 :: xs →
    exec (.read p n) s = .next
      { s with
        devices := s.devices.set s.cur
          { m with
            fsm := .idle, csOut := .high, holdsLock := false, pollCount := e.maxPolls, op := none
            env := { m.env with
              responses := m.env.responses ++ [[0x03#8]], csAnswers := css, drdyAnswers := ds, xferAnswers := xs,
              drawn := m.env.drawn + (e.maxPolls + 5) } }
        trace := s.trace ++
          (readTimeoutEvents s.params.chip p n e.maxPolls [x0, x1, x2] [y0] [z0]).map fun ev => (s.cur, ev) }

/-! ### Sequencer: what every run does, whatever the environment answers -/

/-- Derived from R142, R146, R149, R163, R217: every INIT with a free bus and legal operands ends, within
`11 + 2·INIT_POLLS + 2` events, either OK, `Configured` with the new configuration and RST high, or with one of its errors,
`Uninitialized` with no configuration. -/
def Obligations.InitAlwaysEnds : Prop :=
  ∀ (s : State) (m : Device) (r g : Byte), s.devices[s.cur]? = some m → m.op = none →
    (m.fsm = .uninitialized ∨ m.fsm = .configured ∨ m.fsm = .idle) →
    r.toNat < s.params.rates.length → validGain s.params.chip g = true → s.busOwner = none → 1 ≤ s.params.initPolls →
    ∃ t m', exec (.init r g) s = .next t ∧ endedCleanly s t m m' (11 + 2 * s.params.initPolls + 2) ∧
      ((m'.fsm = .configured ∧ m'.cfgRate = some r ∧ m'.cfgGain = some g ∧ m'.rstOut = .high ∧
          m'.env.responses = m.env.responses ++ [[0x00#8]]) ∨
       (m'.fsm = .uninitialized ∧ m'.cfgRate = none ∧ m'.cfgGain = none ∧
          ∃ st ∈ [Status.transportError, .gpioError, .timeout],
            m'.env.responses = m.env.responses ++ [[st.code]]))

/-- Derived from R151, R152, R163, R217: every SETCFG with a free bus and legal operands ends, within `6 + 2` events,
either OK and `Configured` with the new configuration, or with an error, `Uninitialized` with none; RST and the poll count
stay. -/
def Obligations.SetcfgAlwaysEnds : Prop :=
  ∀ (s : State) (m : Device) (r g : Byte), s.devices[s.cur]? = some m → m.op = none →
    (m.fsm = .configured ∨ m.fsm = .idle) →
    r.toNat < s.params.rates.length → validGain s.params.chip g = true → s.busOwner = none →
    ∃ t m', exec (.setcfg r g) s = .next t ∧ endedCleanly s t m m' (6 + 2) ∧
      m'.rstOut = m.rstOut ∧ m'.pollCount = m.pollCount ∧
      ((m'.fsm = .configured ∧ m'.cfgRate = some r ∧ m'.cfgGain = some g ∧
          m'.env.responses = m.env.responses ++ [[0x00#8]]) ∨
       (m'.fsm = .uninitialized ∧ m'.cfgRate = none ∧ m'.cfgGain = none ∧
          ∃ st ∈ [Status.transportError, .gpioError], m'.env.responses = m.env.responses ++ [[st.code]]))

/-- Derived from R154, R159, R160, R163, R217: every READ (and READSE) with a free bus and legal operands ends `Idle`,
within `10 + 2·MAX_POLLS + 2` events, with a code or with one of its errors; the cached configuration and RST stay. -/
def Obligations.ReadAlwaysEnds : Prop :=
  ∀ (s : State) (m : Device) (p n : Nat) (r : Byte) (e : RateEntry), s.devices[s.cur]? = some m → m.op = none →
    (m.fsm = .configured ∨ m.fsm = .idle) → m.cfgRate = some r → s.params.rates[r.toNat]? = some e →
    isChannel s.params.chip p = true → isChannel s.params.chip n = true → s.busOwner = none → 1 ≤ e.maxPolls →
    ∀ i ∈ [Instr.read p n, if n = s.params.chip.chCom then .readse p else .read p n],
    ∃ t m', exec i s = .next t ∧ endedCleanly s t m m' (10 + 2 * e.maxPolls + 2) ∧
      m'.fsm = .idle ∧ m'.cfgRate = m.cfgRate ∧ m'.cfgGain = m.cfgGain ∧ m'.rstOut = m.rstOut ∧
      ((∃ u : Code24, m'.env.responses = m.env.responses ++ [0x00#8 :: bytesOf32 (u.signExtend 32)]) ∨
       ∃ st ∈ [Status.transportError, .gpioError, .timeout], m'.env.responses = m.env.responses ++ [[st.code]])

/-- Derived from R34, R149, R152: when INIT or SETCFG has run and the configuration is cached, the trace shows both chip
registers last written with it (with parameters that are legal, log entry 4). -/
def Obligations.CachedConfigurationWasWritten : Prop :=
  ∀ (s t : State) (m m' : Device) (r g : Byte) (e : RateEntry), s.devices[s.cur]? = some m → m.op = none →
    s.params.chip.legal = true → s.params.rates[r.toNat]? = some e → validGain s.params.chip g = true → s.busOwner = none →
    ∀ i ∈ [Instr.init r g, .setcfg r g], exec i s = .next t → t.devices[s.cur]? = some m' → m'.cfgRate.isSome = true →
      m'.cfgRate = some r ∧ m'.cfgGain = some g ∧
      chipReg s.params.chip drateReg (traceOf s.cur t.trace) = some e.drate ∧
      chipReg s.params.chip adconReg (traceOf s.cur t.trace) = some g

/-- R214 (with the conditions of R97 and R195): an illegal operand is answered with `ConfigError`, with no port event and
no other change. (With the parameters of R8 the bounds are the numbers of R97: see DecidedParameters.) -/
def Obligations.ConfigErrorTouchesNothing : Prop :=
  ∀ (s : State) (m : Device), s.devices[s.cur]? = some m →
    let rejected : State := s.putDevice (m.respond [0x04#8])
    (∀ r g : Byte, m.op = none → (m.fsm = .uninitialized ∨ m.fsm = .configured ∨ m.fsm = .idle) →
      (s.params.rates.length ≤ r.toNat ∨ validGain s.params.chip g = false) → exec (.init r g) s = .next rejected) ∧
    (∀ r g : Byte, m.op = none → (m.fsm = .configured ∨ m.fsm = .idle) →
      (s.params.rates.length ≤ r.toNat ∨ validGain s.params.chip g = false) → exec (.setcfg r g) s = .next rejected) ∧
    (∀ (p n : Nat) (r : Byte), m.op = none → (m.fsm = .configured ∨ m.fsm = .idle) → m.cfgRate = some r →
      r.toNat < s.params.rates.length →
      ((isChannel s.params.chip p = false ∨ isChannel s.params.chip n = false) →
        exec (.read p n) s = .next rejected) ∧
      (isChannel s.params.chip p = false → exec (.readse p) s = .next rejected)) ∧
    (∀ (c : Code32) (g : Byte) (v : F64), (validGain s.params.chip g = false ∨ f64Finite v = false ∨ f64Value v ≤ 0) →
      exec (.scale c g v) s = .next rejected) ∧
    (∀ r v : Byte, s.params.chip.regMax < r.toNat → exec (.encwreg r v) s = .next rejected) ∧
    (∀ p n : Nat, (isChannel s.params.chip p = false ∨ isChannel s.params.chip n = false) →
      exec (.encmux p n) s = .next rejected) ∧
    (∀ p : Nat, isChannel s.params.chip p = false → exec (.muxse p) s = .next rejected)

/-- R222: a request is refused when its op byte is unassigned or it is too short, when it is SETCFG, READ or VOLTS in
`Uninitialized` or without the cache field it reads, and when it is INIT in `Reset` or `Converting`. (A refusal carries no
state: nothing is changed and nothing answered.) Beside R222, from R151, R154 and R192: SETCFG, READ and VOLTS are refused
in every `fsm` state but `Configured` and `Idle`. -/
def Obligations.RefusedRequests : Prop :=
  (∀ (s : State) (m : Device) (bytes : List Byte) (more : List (List Byte)),
    s.devices[s.turn.agent]? = some m → m.op = none → m.env.requests = bytes :: more →
    (∀ op operands, bytes = op :: operands →
      (op.toNat = 0 ∨ 0x0A < op.toNat) ∨ ∃ len, hostLength s.params.chip op = some len ∧ bytes.length < len) →
    ∃ why, step s = .refused why) ∧
  (∀ (s : State) (m : Device), s.devices[s.cur]? = some m →
    (m.fsm = .uninitialized → ∀ (r g : Byte) (p n : Nat) (c : Code32),
      ∀ i ∈ [Instr.setcfg r g, .read p n, .readse p, .volts c], ∃ why, exec i s = .refused why) ∧
    (¬(m.fsm = .configured ∨ m.fsm = .idle) → ∀ (r g : Byte) (p n : Nat) (c : Code32),
      ∀ i ∈ [Instr.setcfg r g, .read p n, .readse p, .volts c], ∃ why, exec i s = .refused why) ∧
    (m.cfgRate = none → ∀ p n : Nat, ∀ i ∈ [Instr.read p n, .readse p], ∃ why, exec i s = .refused why) ∧
    (m.cfgGain = none → ∀ c : Code32, ∃ why, exec (.volts c) s = .refused why) ∧
    ((m.fsm = .reset ∨ m.fsm = .converting) → ∀ r g : Byte, ∃ why, exec (.init r g) s = .refused why))

/-! ### Port calls and errors (60_exceptions.md) -/

/-- R216, R217: the two events that are left after `Abort(E)`. CS is driven high once; a failure of that leaves it
`Unknown` and sets `cs_fault`; the lock is given back, `fsm` and the cache are as R217 says, and `E` is answered. -/
def Obligations.AbortCleansUp : Prop :=
  ∀ (me : Nat) (m : Device) (o : InProgress) (st : Status) (es : List Event) (answer : LineAnswer) (css : List LineAnswer),
    m.op = some o → st ≠ .ok → m.env.csAnswers = answer :: css →
    Lane.run me 2 { dev := m.abort st, owner := some me, events := es } =
      { dev :=
          { m with
            fsm := (match o.operation with | .init _ _ => .uninitialized | .setcfg _ _ => .uninitialized | .read _ _ => .idle)
            cfgRate := (match o.operation with | .init _ _ => none | .setcfg _ _ => none | .read _ _ => m.cfgRate)
            cfgGain := (match o.operation with | .init _ _ => none | .setcfg _ _ => none | .read _ _ => m.cfgGain)
            csOut := (match answer with | .ok => .high | .gpioError => .unknown)
            csFault := (match answer with | .ok => m.csFault | .gpioError => true)
            holdsLock := false, op := none
            env := { m.env with
              responses := m.env.responses ++ [[st.code]], csAnswers := css, drawn := m.env.drawn + 1 } }
        owner := none
        events := es ++ [.cs .high answer, .rel] }

/-- Derived from R35, R36, R211, R212: a port call that fails is recorded and aborts the operation at once with its error;
the level of a line whose write failed is `Unknown`. -/
def Obligations.FailedPortCallsAbort : Prop :=
  ∀ (me : Nat) (l : Lane) (o : InProgress) (rest : List PortCall), l.dev.op = some o →
    (∀ tx eff xs, o.rest = .transfer tx eff :: rest → l.dev.env.xferAnswers = .transportError :: xs →
      l.next me = l.record (.xfer tx .transportError)
        ({ l.dev with env := { l.dev.env with xferAnswers := xs, drawn := l.dev.env.drawn + 1 } }.abort .transportError)) ∧
    (∀ lvl eff css, o.rest = .setCS lvl eff :: rest → l.dev.env.csAnswers = .gpioError :: css →
      l.next me = l.record (.cs lvl .gpioError)
        ({ l.dev with
            csOut := .unknown
            env := { l.dev.env with csAnswers := css, drawn := l.dev.env.drawn + 1 } }.abort .gpioError)) ∧
    (∀ lvl rsts, o.rest = .setRST lvl :: rest → l.dev.env.rstAnswers = .gpioError :: rsts →
      l.next me = l.record (.rst lvl .gpioError)
        ({ l.dev with
            rstOut := .unknown
            env := { l.dev.env with rstAnswers := rsts, drawn := l.dev.env.drawn + 1 } }.abort .gpioError)) ∧
    (∀ lvl n ds, o.rest = .readDRDY lvl n :: rest → l.dev.env.drdyAnswers = .gpioError :: ds →
      l.next me = l.record (.drdy .gpioError)
        ({ l.dev with
            env := { l.dev.env with drdyAnswers := ds, drawn := l.dev.env.drawn + 1 } }.abort .gpioError))

/-- Derived from R38, R147: `WaitDRDY(awaited, N)` from a count of 0. With the awaited level on read `k + 1 ≤ N` it goes on
after that read; with `N` other levels it aborts with `Timeout`; with `GpioError` on read `k + 1 ≤ N` it aborts with that;
it sleeps exactly between reads. -/
def Obligations.WaitPollsUpToItsBound : Prop :=
  ∀ (me : Nat) (l : Lane) (o : InProgress) (awaited : Level) (N : Nat) (rest : List PortCall) (ds : List DrdyAnswer),
    l.dev.op = some o → o.rest = .readDRDY awaited N :: rest → l.dev.pollCount = 0 → 1 ≤ N →
    (∀ k, k < N → l.dev.env.drdyAnswers = List.replicate k (.level (otherLevel awaited)) ++ .level awaited :: ds →
      Lane.run me (2 * k + 1) l =
        { l with
          dev := { l.dev with
            pollCount := k + 1, op := some { o with rest := rest }
            env := { l.dev.env with drdyAnswers := ds, drawn := l.dev.env.drawn + (k + 1) } }
          events := l.events ++ pollEvents (otherLevel awaited) k ++ [.drdy (.level awaited)] }) ∧
    (l.dev.env.drdyAnswers = List.replicate N (.level (otherLevel awaited)) ++ ds →
      Lane.run me (2 * N - 1) l =
        { l with
          dev := { l.dev with
            pollCount := N, op := some { o with rest := [.cleanupCS, .release .timeout] }
            env := { l.dev.env with drdyAnswers := ds, drawn := l.dev.env.drawn + N } }
          events := l.events ++ pollEvents (otherLevel awaited) (N - 1) ++ [.drdy (.level (otherLevel awaited))] }) ∧
    (∀ k, k < N → l.dev.env.drdyAnswers = List.replicate k (.level (otherLevel awaited)) ++ .gpioError :: ds →
      Lane.run me (2 * k + 1) l =
        { l with
          dev := { l.dev with
            pollCount := k, op := some { o with rest := [.cleanupCS, .release .gpioError] }
            env := { l.dev.env with drdyAnswers := ds, drawn := l.dev.env.drawn + (k + 1) } }
          events := l.events ++ pollEvents (otherLevel awaited) k ++ [.drdy .gpioError] })

/-- Derived from R42, R167: while a device instance owns the bus, `Acquire` holds. Nothing happens in a turn, of one event or
of the whole operation; an INIT, SETCFG, READ or READSE issued then is begun and holds before its event list, with no
event. -/
def Obligations.AcquireHoldsWhileTheBusIsOwned : Prop :=
  ∀ (s : State) (m : Device) (j : Nat), s.devices[s.cur]? = some m → s.busOwner = some j →
    (∀ o rest, m.op = some o → o.rest = .acquire :: rest → s.portStep = s ∧ s.finish = s) ∧
    (∀ (r g : Byte) (e : RateEntry), m.op = none → s.params.rates[r.toNat]? = some e →
      validGain s.params.chip g = true →
      ((m.fsm = .uninitialized ∨ m.fsm = .configured ∨ m.fsm = .idle) →
        exec (.init r g) s = .next (s.putDevice (m.begin (.init r g) (initPlan s.params r g e.drate)))) ∧
      ((m.fsm = .configured ∨ m.fsm = .idle) →
        exec (.setcfg r g) s = .next (s.putDevice (m.begin (.setcfg r g) (setcfgPlan r g e.drate))))) ∧
    (∀ (p n : Nat) (r : Byte) (e : RateEntry), m.op = none → (m.fsm = .configured ∨ m.fsm = .idle) → m.cfgRate = some r →
      s.params.rates[r.toNat]? = some e → isChannel s.params.chip p = true → isChannel s.params.chip n = true →
      exec (.read p n) s = .next (s.putDevice (m.begin (.read p n) (readPlan s.params.chip e.maxPolls p n))) ∧
      (n = s.params.chip.chCom → exec (.readse p) s = exec (.read p n) s))

/-! ### Chip frames (30_encoding.md) -/

/-- R84 to R87 and R15 (result and frame): where an operation stands at the transfer of a frame, the frame's instruction
sends its bytes as one transfer: the event is recorded with what was received, the operation goes on past it, with the
write of state its rule gives the transfer; on `TransportError` the operation aborts. Nothing else changes. -/
def Obligations.ChipFramesAreSentWhereDue : Prop :=
  ∀ (s : State) (m : Device) (o : InProgress) (tx : List Byte) (eff : Effect) (rest : List PortCall)
    (r p n : Nibble) (v : Byte),
    s.devices[s.cur]? = some m → m.op = some o → o.rest = .transfer tx eff :: rest →
    ∀ i ∈ [(Instr.wreg r v, [0x50#8 ||| r.setWidth 8, 0x00#8, v]), (.muxsel p n, [0x51#8, 0x00#8, p ++ n]),
           (.sync, [0xFC#8]), (.wakeup, [s.params.chip.wakeupByte]), (.rdata, [0x01#8]),
           (.dataread, [s.params.chip.fillByte, s.params.chip.fillByte, s.params.chip.fillByte])],
      tx = i.2 →
      (∀ b0 b1 b2 xs, m.env.xferAnswers = .rx b0 b1 b2 :: xs →
        exec i.1 s = .next
          { s with
            devices := s.devices.set s.cur
              (({ m with
                  op := some { o with rest := rest }
                  env := { m.env with xferAnswers := xs, drawn := m.env.drawn + 1 } }).applyEffect eff
                ([b0, b1, b2].take tx.length))
            trace := s.trace ++ [(s.cur, .xfer tx (.rx ([b0, b1, b2].take tx.length)))] }) ∧
      (∀ xs, m.env.xferAnswers = .transportError :: xs →
        exec i.1 s = .next
          { s with
            devices := s.devices.set s.cur
              { m with
                op := some { o with rest := [.cleanupCS, .release .transportError] }
                env := { m.env with xferAnswers := xs, drawn := m.env.drawn + 1 } }
            trace := s.trace ++ [(s.cur, .xfer tx .transportError)] })

/-- Derived from R140: a frame at which no operation stands is not sent. That its instruction is refused there, by the name
`frameNotDue`, is the model's choice (log entry 1). -/
def Obligations.ChipFramesAreSentNowhereElse : Prop :=
  ∀ (s : State) (m : Device) (i : Instr), s.devices[s.cur]? = some m → i.layer = .chip →
    m.dueFrame ≠ some (encode s.params.chip i) → exec i s = .refused .frameNotDue

/-! ### Encodings (30_encoding.md) -/

/-- Derived from the encodings of 30_encoding.md, with the model's choice of log entry 9 (which row names shared words): with
legal chip parameters (log entry 4) every well-formed instruction is what its words decode to. -/
def Obligations.DecodeOfEncode : Prop :=
  ∀ (cp : ChipParams) (i : Instr), cp.legal = true → i.wellFormed cp = true →
    decodeFrame cp i.layer (encode cp i) = .ok i

/-- Derived, with the model's choices of log entries 9 (which row names shared words) and 10 (no longer request): the decoder
accepts nothing but the words of well-formed instructions of its layer. -/
def Obligations.EncodeOfDecode : Prop :=
  ∀ (cp : ChipParams) (layer : Layer) (bytes : List Byte) (i : Instr), decodeFrame cp layer bytes = .ok i →
    i.wellFormed cp = true ∧ i.layer = layer ∧ encode cp i = bytes

/-- Derived from R81, R100, R102: the bytes of a frame of one layer are no frame of the other, for chip parameters whose
WAKEUP and fill bytes are unassigned op bytes, as the decided 0x00 is. -/
def Obligations.LayersShareNoFrame : Prop :=
  ∀ cp : ChipParams, hostLength cp cp.wakeupByte = none → hostLength cp cp.fillByte = none →
    (∀ (bytes : List Byte) (i : Instr), decodeChip cp bytes = .ok i → ∃ e, decodeHost cp bytes = .error e) ∧
    (∀ (bytes : List Byte) (i : Instr), decodeHost cp bytes = .ok i → ∃ e, decodeChip cp bytes = .error e)

/-- Derived from R84 to R87, R100, R105: words written out from the encodings, one for each row of the opcode table. That
`51 00 38` is named MUXSEL, and words with AINCOM READSE and MUXSE, is the model's choice (log entry 9). -/
def Obligations.WordsOfTheTable : Prop :=
  (let chip := decodeChip ChipParams.default
   chip [0b01010011#8, 0b00000000#8, 0b10100001#8] = .ok (.wreg 3#4 0xA1#8) ∧
   chip [0b01010001#8, 0b00000000#8, 0b00111000#8] = .ok (.muxsel 3#4 8#4) ∧
   chip [0b11111100#8] = .ok .sync ∧ chip [0b00000000#8] = .ok .wakeup ∧ chip [0b00000001#8] = .ok .rdata ∧
   chip [0b00000000#8, 0b00000000#8, 0b00000000#8] = .ok .dataread) ∧
  (let host := decodeHost ChipParams.default
   host [0b00000001#8, 0b00000101#8, 0b00000010#8] = .ok (.init 5#8 2#8) ∧
   host [0b00000010#8, 0b00000000#8, 0b00000110#8] = .ok (.setcfg 0#8 6#8) ∧
   host [0b00000011#8, 0b00000010#8, 0b00000101#8] = .ok (.read 2 5) ∧
   host [0b00000011#8, 0b00000011#8, 0b00001000#8] = .ok (.readse 3) ∧
   host [0b00000100#8, 0b11111111#8, 0b10000000#8, 0b00000000#8, 0b00000001#8] = .ok (.volts 0xFF800001#32) ∧
   host [0x05#8, 0x00#8, 0x12#8, 0x34#8, 0x56#8, 0x06#8, 0x40#8, 0x0A#8, 0x66#8, 0x66#8, 0x66#8, 0x66#8, 0x66#8, 0x67#8] =
     .ok (.scale 0x00123456#32 6#8 0x400A666666666667#64) ∧
   host [0b00000110#8, 0b00000011#8, 0b10100001#8] = .ok (.encwreg 3#8 0xA1#8) ∧
   host [0b00000111#8, 0b00000010#8, 0b00000101#8] = .ok (.encmux 2 5) ∧
   host [0b00000111#8, 0b00000011#8, 0b00001000#8] = .ok (.muxse 3) ∧
   host [0b00001000#8, 0b11101101#8, 0b11001011#8, 0b10101010#8] = .ok (.decode 0xED#8 0xCB#8 0xAA#8) ∧
   host [0b00001001#8] = .ok .encsyncwake ∧ host [0b00001010#8] = .ok .encrdata)

/-! ### The step -/

/-- Derived from R10, R100, R140: a step runs the decoded instruction. (That a state names its turns is the model's choice,
log entry 3.) A whole turn of a device instance with no operation
in progress and a request that decodes to `i` is `exec i`, with the turn and the request taken; a turn of one event of an
operation that stands at a transfer of a frame that decodes to `i` is `exec i`, with the turn taken. -/
def Obligations.StepRunsTheDecodedInstruction : Prop :=
  ∀ (s : State) (t : Turn) (ts : List Turn) (m : Device) (i : Instr),
    s.turns = t :: ts → s.devices[t.agent]? = some m →
    (∀ bytes more, t.grain = .whole → m.op = none → m.env.requests = bytes :: more → decodeHost s.params.chip bytes = .ok i →
      step s = exec i
        { s with
          cur := t.agent, turns := ts, ticks := s.ticks + 1
          devices := s.devices.set t.agent { m with env := { m.env with requests := more } } }) ∧
    (∀ tx, t.grain = .event → m.dueFrame = some tx → decodeChip s.params.chip tx = .ok i →
      step s = exec i { s with cur := t.agent, turns := ts, ticks := s.ticks + 1 })

/-- Derived from R10, R40: what else a step does (with the turns of log entry 3, the model's choice). A device instance with
nothing to do, or at an `Acquire` that holds, lets its turn pass; a turn of one event makes the next port event of an
operation in progress, or begins a requested one; a whole turn finishes an operation in progress. -/
def Obligations.StepWithoutADecodedInstruction : Prop :=
  ∀ (s : State) (t : Turn) (ts : List Turn) (m : Device), s.turns = t :: ts → s.devices[t.agent]? = some m →
    let s' : State := { s with cur := t.agent, turns := ts, ticks := s.ticks + 1 }
    (m.op = none → m.env.requests = [] → step s = .next s') ∧
    (∀ o, m.op = some o → t.grain = .event → m.dueFrame = none → step s = .next s'.portStep) ∧
    (∀ o, m.op = some o → t.grain = .whole → step s = .next s'.finish) ∧
    (∀ o rest j, m.op = some o → o.rest = .acquire :: rest → s.busOwner = some j → step s = .next s') ∧
    (∀ bytes more i, t.grain = .event → m.op = none → m.env.requests = bytes :: more → decodeHost s.params.chip bytes = .ok i →
      step s = beginOp i
        { s' with devices := s.devices.set t.agent { m with env := { m.env with requests := more } } })

/-- Derived from R40, R68, D40 (the two grains are the model's choice, log entry 3): the whole turn of a sequencer operation
is the sequence of its port events taken one step at a time (with parameters that are legal, log entry 4). -/
def Obligations.WholeTurnIsItsEventTurns : Prop :=
  ∀ (s s1 t : State) (r g : Byte) (p n : Nat), s.params.chip.legal = true →
    ∀ i ∈ [Instr.init r g, .setcfg r g, .read p n, .readse p],
    beginOp i s = .next s1 → exec i s = .next t →
    ∃ k, Host.Core.run Sys2Proof.core k
        { s1 with turns := List.replicate k { agent := s.cur, grain := .event } } =
      .next { t with turns := [], ticks := s.ticks + k }

/-- The model's choice (log entry 13): the frame of an opcode-table word, once placed, is what the next step runs. -/
def Obligations.PlacedFrameRunsNext : Prop :=
  ∀ (s : State) (m : Device) (nbits w : Nat) (i : Instr), s.devices[s.cur]? = some m →
    ((tableFrame s.params.chip nbits w).map fun f => f.2.2) = some i →
    (i.layer = .host → step (s.withFetchWord nbits w) =
      exec i { s.putDevice { m with op := none } with ticks := s.ticks + 1 }) ∧
    (i.layer = .chip → ∃ s' m', step (s.withFetchWord nbits w) = exec i s' ∧ s'.devices[s.cur]? = some m' ∧
      s'.cur = s.cur ∧ m'.dueFrame = some (encode s.params.chip i) ∧ ∃ t, exec i s' = .next t)

/-! ### The machine as a whole -/

/-- R53: what construction leaves in every field of every device instance, and of the bus. -/
def Obligations.ResetState : Prop :=
  State.reset.busOwner = none ∧ State.reset.trace = [] ∧ State.reset.devices ≠ [] ∧
  ∀ m ∈ State.reset.devices,
    m.fsm = .uninitialized ∧ m.cfgRate = none ∧ m.cfgGain = none ∧ m.cfgValid = false ∧ m.csOut = .unknown ∧
    m.rstOut = .unknown ∧ m.holdsLock = false ∧ m.pollCount = 0 ∧ m.csFault = false ∧ m.op = none ∧
    f64Finite m.vref = true ∧ 0 < f64Value m.vref

/-- Derived from R8, R90, R92, R93, R97: the parameters after construction. Those for which R8 gives a value have it: 8
inputs, AINCOM 8, channel operands of 8 bits, registers up to 0x0A, the gains, the WAKEUP and fill bytes, so the legal
operands are those of R97 and each gain is `2^g` of its index; the rates and the level awaited by INIT are the defaults, and
the bounds of the waits are at least 1. (That the open ones are free, that parameters stand in the state, and which
parameters are legal, is the model's choice, log entry 4.) -/
def Obligations.DecidedParameters : Prop :=
  State.reset.params.chip =
    { nAin := 8, chCom := 8, chW := 8, regMax := 0x0A, gains := [1, 2, 4, 8, 16, 32, 64]
      wakeupByte := 0x00#8, fillByte := 0x00#8 } ∧
  State.reset.params.chip.legal = true ∧
  (∀ x : Nat, isChannel State.reset.params.chip x = true ↔ x ≤ 8) ∧
  (∀ r : Byte, validReg State.reset.params.chip r = true ↔ r.toNat ≤ 0x0A) ∧
  (∀ g : Byte, validGain State.reset.params.chip g = true ↔ g.toNat ≤ 6) ∧
  (∀ op : Byte, hostLength State.reset.params.chip op =
    [none, some 3, some 3, some 3, some 5, some 14, some 3, some 3, some 4, some 1, some 1].getD op.toNat none) ∧
  State.reset.params.rates.map RateEntry.drate =
    [0xF0#8, 0xE0#8, 0xD0#8, 0xC0#8, 0xB0#8, 0xA1#8, 0x92#8, 0x82#8, 0x72#8, 0x63#8, 0x53#8, 0x43#8, 0x33#8, 0x23#8,
     0x13#8, 0x03#8] ∧
  State.reset.params.initDrdyLevel = .low ∧ 1 ≤ State.reset.params.initPolls ∧
  ∀ e ∈ State.reset.params.rates, 1 ≤ e.maxPolls

/-- Derived: the invariant holds after construction. -/
def Obligations.InvariantAtReset : Prop := Inv State.reset

/-- Derived from R34, R37, R42, R73, R141, R242, R245, R246: every step keeps the invariant of the machine. -/
def Obligations.EveryStepKeepsTheInvariant : Prop :=
  ∀ s t : State, Inv s → step s = .next t → Inv t

/-- R43: at most one device instance has CS low, and it is the owner of the bus. -/
def Obligations.OnlyTheBusOwnerHasChipSelectLow : Prop :=
  ∀ s : State, Inv s →
    (∀ (i : Nat) (m : Device), s.devices[i]? = some m → m.csOut = .low → s.busOwner = some i) ∧
    (∀ (i j : Nat) (m m' : Device), s.devices[i]? = some m → s.devices[j]? = some m' →
      m.csOut = .low → m'.csOut = .low → i = j)

/-- R246: in the trace of a device instance, RDATA comes only after a low data-ready read that came after the WAKEUP of the
same operation. -/
def Obligations.RdataOnlyAfterDataReady : Prop :=
  ∀ (s : State) (i : Nat) (m : Device) (before after : List Event) (res : XferResult), Inv s →
    s.devices[i]? = some m → traceOf i s.trace = before ++ .xfer [0x01#8] res :: after →
    ∃ (a b c : List Event) (rx : List Byte),
      before = a ++ .xfer [s.params.chip.wakeupByte] (.rx rx) :: b ++ .drdy (.level .low) :: c ∧ .acq ∉ b ∧ .acq ∉ c

/-- R245: no frame is sent until the power-up delay after the last change of the reset line. -/
def Obligations.FramesOnlyAfterPowerUp : Prop :=
  ∀ (s : State) (i : Nat) (m : Device) (before after : List Event) (tx : List Byte) (res : XferResult), Inv s →
    s.devices[i]? = some m → traceOf i s.trace = before ++ .xfer tx res :: after →
    ∃ a b : List Event, before = a ++ .sleep .tPwrup :: b ∧ ∀ l r, .rst l r ∉ b

/-- Derived from R244: in the trace of a device instance, each level that the reset line got is held for `T_RST`: the sleep
follows at once. -/
def Obligations.ResetLevelsAreHeld : Prop :=
  ∀ (s : State) (i : Nat) (m : Device) (before after : List Event) (l : Level) (e : Event), Inv s →
    s.devices[i]? = some m → traceOf i s.trace = before ++ .rst l .ok :: e :: after → e = .sleep .tRst

/-- Derived from R250: in the trace of a device instance, each WAKEUP comes at once after a SYNC and the sleep `T_SYNC`, and
each data read at once after an RDATA and the sleep `T_RDATA`. -/
def Obligations.CommandsWaitTheirDelays : Prop :=
  ∀ (s : State) (i : Nat) (m : Device) (before after : List Event) (res : XferResult), Inv s → s.devices[i]? = some m →
    (traceOf i s.trace = before ++ .xfer [s.params.chip.wakeupByte] res :: after →
      ∃ (a : List Event) (rx : List Byte), before = a ++ [.xfer [0xFC#8] (.rx rx), .sleep .tSync]) ∧
    (traceOf i s.trace =
        before ++ .xfer [s.params.chip.fillByte, s.params.chip.fillByte, s.params.chip.fillByte] res :: after →
      ∃ (a : List Event) (rx : List Byte), before = a ++ [.xfer [0x01#8] (.rx rx), .sleep .tRdata])

/-- Derived from R248, R141: in the trace of a device instance, CS stays low from the MUX frame to the data read, and the
lock is held: before each data read stand a CS low and a MUX frame, with no other CS event and no release or taking of the
lock from the one to the other and from there to the data read. -/
def Obligations.ChipSelectIsHeldAcrossAConversion : Prop :=
  ∀ (s : State) (i : Nat) (m : Device) (before after : List Event) (res : XferResult), Inv s → s.devices[i]? = some m →
    traceOf i s.trace =
      before ++ .xfer [s.params.chip.fillByte, s.params.chip.fillByte, s.params.chip.fillByte] res :: after →
    ∃ (a b c : List Event) (code : Byte) (rx : List Byte),
      before = a ++ .cs .low .ok :: b ++ .xfer [0x51#8, 0x00#8, code] (.rx rx) :: c ∧
      ∀ e ∈ b ++ c, e ≠ .acq ∧ e ≠ .rel ∧ ∀ l r, e ≠ .cs l r

/-- Derived from R81, R95, R99, R141: every transfer of a trace is one of the block's own frames and lies in a chip-select
window: after a successful CS low, with no other CS event and no release between. -/
def Obligations.TransfersAreBlockFramesInWindows : Prop :=
  ∀ (s : State) (i : Nat) (m : Device) (before after : List Event) (tx : List Byte) (res : XferResult), Inv s →
    s.devices[i]? = some m → traceOf i s.trace = before ++ .xfer tx res :: after →
    blockFrame s.params.chip tx = true ∧
    ∃ a b : List Event, before = a ++ .cs .low .ok :: b ∧ (∀ l r, .cs l r ∉ b) ∧ .rel ∉ b

/-- Derived from R73, R75: between an `Acq` and its `Rel` the bus trace holds events of that device instance only. -/
def Obligations.OperationsNeverInterleave : Prop :=
  ∀ (s : State) (i j : Nat) (a b c : List (Nat × Event)) (e : Event), Inv s →
    s.trace = a ++ (i, .acq) :: b ++ (j, e) :: c → (i, Event.rel) ∉ b → j = i

/-- Derived from R39, R41, R45, R52, R227: a step touches no device instance but the one whose turn it is, changes no
parameter, no reference voltage and no number of instances, clears no `cs_fault`, and only adds events of that instance to
the trace. -/
def Obligations.AStepTouchesOnlyItsDevice : Prop :=
  ∀ s t : State, step s = .next t →
    t.params = s.params ∧ t.devices.length = s.devices.length ∧
    (∀ j, j ≠ s.turn.agent → t.devices[j]? = s.devices[j]?) ∧
    (∀ (j : Nat) (m m' : Device), s.devices[j]? = some m → t.devices[j]? = some m' →
      m'.vref = m.vref ∧ (m.csFault = true → m'.csFault = true)) ∧
    ∃ es : List Event, t.trace = s.trace ++ es.map fun e => (s.turn.agent, e)

/-- Derived from R103, R210: a step answers at most one response, which begins with a status code of 0 to 4 and is that
byte alone unless the code is 0. -/
def Obligations.ResponsesAreStatusFrames : Prop :=
  ∀ (s t : State) (m m' : Device), step s = .next t → s.devices[s.turn.agent]? = some m →
    t.devices[s.turn.agent]? = some m' →
    m'.env.responses = m.env.responses ∨
    ∃ (code : Byte) (payload : List Byte), m'.env.responses = m.env.responses ++ [code :: payload] ∧
      code.toNat ≤ 4 ∧ (code ≠ 0#8 → payload = [])

/-- Derived from R31, R47, R210: the status words and codes. CFG has `valid` in bit 15, zeros in bits 14 to 11, the cached
indices in bits 10 to 8 and 7 to 0 where it is valid, and is 0 after construction; `fsm` has the codes 0 to 4; OK,
TransportError, GpioError, Timeout and ConfigError have the status codes 0 to 4. -/
def Obligations.StatusWords : Prop :=
  (∀ (m : Device) (r g : Byte), m.cfgRate = some r → m.cfgGain = some g → g.toNat ≤ 6 →
    m.cfg.toNat = 2 ^ 15 + 2 ^ 8 * g.toNat + r.toNat) ∧
  (∀ m : Device, m.cfg.getLsbD 15 = (m.cfgRate.isSome && m.cfgGain.isSome) ∧ m.cfg.extractLsb' 11 4 = 0#4) ∧
  (∀ v : F64, (Device.constructed v).cfg = 0#16) ∧
  [Fsm.uninitialized, .reset, .configured, .idle, .converting].map Fsm.code = [0#3, 1#3, 2#3, 3#3, 4#3] ∧
  [Status.ok, .transportError, .gpioError, .timeout, .configError].map Status.code = [0#8, 1#8, 2#8, 3#8, 4#8]

/-- Derived from R104, R105: the spec's example lines assemble to their instructions (with the default parameters). The line
`VOLTS -1` stands in 95_test_vectors.md, program P2; that a code may have a minus sign is the model's choice (log entry
14). -/
def Obligations.AssemblyExamples : Prop :=
  ∀ ps : Params, ps.chip = ChipParams.default → (∃ polls : Nat → Nat, ps.rates = rateEntries polls) →
    assemble ps "INIT SPS1000, G1".toList = some (.init 5#8 0#8) ∧
    assemble ps "SETCFG SPS30000, G64".toList = some (.setcfg 0#8 6#8) ∧
    assemble ps "READ AIN3, AINCOM".toList = some (.read 3 8) ∧
    assemble ps "READSE AIN3".toList = some (.readse 3) ∧
    assemble ps "VOLTS 8388607".toList = some (.volts 8388607#32) ∧
    assemble ps "VOLTS -1".toList = some (.volts 0xFFFFFFFF#32) ∧
    assemble ps "ENCWREG 0x03, 0xA1".toList = some (.encwreg 3#8 0xA1#8)
end

