-- ==== Sys2Proof/Laws/PerInstr.lean ====
section
/-! SUPPORT. The family `FrameLength`, per instruction: how long its words are. -/

namespace Sys2Proof.Laws.FrameLength

/-- The words of a host operation are as long as its op byte says (R100); those of a chip frame are one or three bytes
(R81), whatever the parameters are. -/
def Statement (i : Instr) : Prop :=
  ∀ cp : ChipParams, ∃ b rest, encode cp i = b :: rest ∧
    (i.layer = .host → hostLength cp b = some (rest.length + 1)) ∧
    (i.layer = .chip → rest.length = 0 ∨ rest.length = 2)

/-- A number of `k` bytes is `k` bytes. -/
theorem length_bytesOfNat (k x : Nat) : (bytesOfNat k x).length = k := by
  induction k with
  | zero => rfl
  | succ k ih => simp [bytesOfNat, ih]

/-- Two channel operands are twice as many bytes as one. -/
theorem length_channelWords (cp : ChipParams) (p n : Nat) : (channelWords cp p n).length = 2 * cp.channelBytes := by
  simp [channelWords, length_bytesOfNat]
  omega

theorem wreg (r : Nibble) (v : Byte) : Statement (.wreg r v) :=
  fun _ => ⟨_, _, rfl, nofun, fun _ => .inr rfl⟩
theorem muxsel (p : Nibble) (n : Nibble) : Statement (.muxsel p n) :=
  fun _ => ⟨_, _, rfl, nofun, fun _ => .inr rfl⟩
theorem sync : Statement .sync :=
  fun _ => ⟨_, _, rfl, nofun, fun _ => .inl rfl⟩
theorem wakeup : Statement .wakeup :=
  fun _ => ⟨_, _, rfl, nofun, fun _ => .inl rfl⟩
theorem rdata : Statement .rdata :=
  fun _ => ⟨_, _, rfl, nofun, fun _ => .inl rfl⟩
theorem dataread : Statement .dataread :=
  fun _ => ⟨_, _, rfl, nofun, fun _ => .inr rfl⟩
theorem init (r : Byte) (g : Byte) : Statement (.init r g) :=
  fun _ => ⟨_, _, rfl, fun _ => rfl, nofun⟩
theorem setcfg (r : Byte) (g : Byte) : Statement (.setcfg r g) :=
  fun _ => ⟨_, _, rfl, fun _ => rfl, nofun⟩
theorem read (p : Nat) (n : Nat) : Statement (.read p n) :=
  fun _ => ⟨_, _, rfl, fun _ => by rw [length_channelWords]; rfl, nofun⟩
theorem volts (c : Code32) : Statement (.volts c) :=
  fun _ => ⟨_, _, rfl, fun _ => rfl, nofun⟩
theorem scale (c : Code32) (g : Byte) (vref : F64) : Statement (.scale c g vref) :=
  fun _ => ⟨_, _, rfl, fun _ => rfl, nofun⟩
theorem encwreg (r : Byte) (v : Byte) : Statement (.encwreg r v) :=
  fun _ => ⟨_, _, rfl, fun _ => rfl, nofun⟩
theorem encmux (p : Nat) (n : Nat) : Statement (.encmux p n) :=
  fun _ => ⟨_, _, rfl, fun _ => by rw [length_channelWords]; rfl, nofun⟩
theorem decode (b0 : Byte) (b1 : Byte) (b2 : Byte) : Statement (.decode b0 b1 b2) :=
  fun _ => ⟨_, _, rfl, fun _ => rfl, nofun⟩
theorem encsyncwake : Statement .encsyncwake :=
  fun _ => ⟨_, _, rfl, fun _ => rfl, nofun⟩
theorem encrdata : Statement .encrdata :=
  fun _ => ⟨_, _, rfl, fun _ => rfl, nofun⟩
theorem readse (p : Nat) : Statement (.readse p) :=
  fun _ => ⟨_, _, rfl, fun _ => by rw [length_channelWords]; rfl, nofun⟩
theorem muxse (p : Nat) : Statement (.muxse p) :=
  fun _ => ⟨_, _, rfl, fun _ => by rw [length_channelWords]; rfl, nofun⟩

end Sys2Proof.Laws.FrameLength
end

