-- ==== Sys2Proof/Laws/State.lean ====
section
/-! SUPPORT. One lemma per field per update of the records of Machine/State.lean, each true by definition, so that no
proof unfolds a record update. -/

namespace Sys2Proof.Machine


/-! ### `Device.goto` -/

@[simp] theorem Device.goto_fsm (m : Device) (rest : List PortCall) : (m.goto rest).fsm = m.fsm := rfl
@[simp] theorem Device.goto_cfgRate (m : Device) (rest : List PortCall) : (m.goto rest).cfgRate = m.cfgRate := rfl
@[simp] theorem Device.goto_cfgGain (m : Device) (rest : List PortCall) : (m.goto rest).cfgGain = m.cfgGain := rfl
@[simp] theorem Device.goto_csOut (m : Device) (rest : List PortCall) : (m.goto rest).csOut = m.csOut := rfl
@[simp] theorem Device.goto_rstOut (m : Device) (rest : List PortCall) : (m.goto rest).rstOut = m.rstOut := rfl
@[simp] theorem Device.goto_holdsLock (m : Device) (rest : List PortCall) : (m.goto rest).holdsLock = m.holdsLock := rfl
@[simp] theorem Device.goto_pollCount (m : Device) (rest : List PortCall) : (m.goto rest).pollCount = m.pollCount := rfl
@[simp] theorem Device.goto_csFault (m : Device) (rest : List PortCall) : (m.goto rest).csFault = m.csFault := rfl
@[simp] theorem Device.goto_vref (m : Device) (rest : List PortCall) : (m.goto rest).vref = m.vref := rfl
@[simp] theorem Device.goto_env (m : Device) (rest : List PortCall) : (m.goto rest).env = m.env := rfl
@[simp] theorem Device.goto_op (m : Device) (rest : List PortCall) : (m.goto rest).op = m.op.map fun o => { o with rest := rest } := rfl

/-! ### `Device.abort` -/

@[simp] theorem Device.abort_fsm (m : Device) (st : Status) : (m.abort st).fsm = m.fsm := rfl
@[simp] theorem Device.abort_cfgRate (m : Device) (st : Status) : (m.abort st).cfgRate = m.cfgRate := rfl
@[simp] theorem Device.abort_cfgGain (m : Device) (st : Status) : (m.abort st).cfgGain = m.cfgGain := rfl
@[simp] theorem Device.abort_csOut (m : Device) (st : Status) : (m.abort st).csOut = m.csOut := rfl
@[simp] theorem Device.abort_rstOut (m : Device) (st : Status) : (m.abort st).rstOut = m.rstOut := rfl
@[simp] theorem Device.abort_holdsLock (m : Device) (st : Status) : (m.abort st).holdsLock = m.holdsLock := rfl
@[simp] theorem Device.abort_pollCount (m : Device) (st : Status) : (m.abort st).pollCount = m.pollCount := rfl
@[simp] theorem Device.abort_csFault (m : Device) (st : Status) : (m.abort st).csFault = m.csFault := rfl
@[simp] theorem Device.abort_vref (m : Device) (st : Status) : (m.abort st).vref = m.vref := rfl
@[simp] theorem Device.abort_env (m : Device) (st : Status) : (m.abort st).env = m.env := rfl
@[simp] theorem Device.abort_op (m : Device) (st : Status) : (m.abort st).op = m.op.map fun o => { o with rest := [.cleanupCS, .release st] } := rfl

/-! ### `Device.respond` -/

@[simp] theorem Device.respond_fsm (m : Device) (frame : List Byte) : (m.respond frame).fsm = m.fsm := rfl
@[simp] theorem Device.respond_cfgRate (m : Device) (frame : List Byte) : (m.respond frame).cfgRate = m.cfgRate := rfl
@[simp] theorem Device.respond_cfgGain (m : Device) (frame : List Byte) : (m.respond frame).cfgGain = m.cfgGain := rfl
@[simp] theorem Device.respond_csOut (m : Device) (frame : List Byte) : (m.respond frame).csOut = m.csOut := rfl
@[simp] theorem Device.respond_rstOut (m : Device) (frame : List Byte) : (m.respond frame).rstOut = m.rstOut := rfl
@[simp] theorem Device.respond_holdsLock (m : Device) (frame : List Byte) : (m.respond frame).holdsLock = m.holdsLock := rfl
@[simp] theorem Device.respond_pollCount (m : Device) (frame : List Byte) : (m.respond frame).pollCount = m.pollCount := rfl
@[simp] theorem Device.respond_csFault (m : Device) (frame : List Byte) : (m.respond frame).csFault = m.csFault := rfl
@[simp] theorem Device.respond_vref (m : Device) (frame : List Byte) : (m.respond frame).vref = m.vref := rfl
@[simp] theorem Device.respond_op (m : Device) (frame : List Byte) : (m.respond frame).op = m.op := rfl
@[simp] theorem Device.respond_env_requests (m : Device) (frame : List Byte) : (m.respond frame).env.requests = m.env.requests := rfl
@[simp] theorem Device.respond_env_csAnswers (m : Device) (frame : List Byte) : (m.respond frame).env.csAnswers = m.env.csAnswers := rfl
@[simp] theorem Device.respond_env_rstAnswers (m : Device) (frame : List Byte) : (m.respond frame).env.rstAnswers = m.env.rstAnswers := rfl
@[simp] theorem Device.respond_env_drdyAnswers (m : Device) (frame : List Byte) : (m.respond frame).env.drdyAnswers = m.env.drdyAnswers := rfl
@[simp] theorem Device.respond_env_xferAnswers (m : Device) (frame : List Byte) : (m.respond frame).env.xferAnswers = m.env.xferAnswers := rfl
@[simp] theorem Device.respond_env_drawn (m : Device) (frame : List Byte) : (m.respond frame).env.drawn = m.env.drawn := rfl
@[simp] theorem Device.respond_env_responses (m : Device) (frame : List Byte) : (m.respond frame).env.responses = m.env.responses ++ [frame] := rfl

/-! ### `Device.begin` -/

@[simp] theorem Device.begin_fsm (m : Device) (o : Operation) (plan : List PortCall) : (m.begin o plan).fsm = m.fsm := rfl
@[simp] theorem Device.begin_cfgRate (m : Device) (o : Operation) (plan : List PortCall) : (m.begin o plan).cfgRate = m.cfgRate := rfl
@[simp] theorem Device.begin_cfgGain (m : Device) (o : Operation) (plan : List PortCall) : (m.begin o plan).cfgGain = m.cfgGain := rfl
@[simp] theorem Device.begin_csOut (m : Device) (o : Operation) (plan : List PortCall) : (m.begin o plan).csOut = m.csOut := rfl
@[simp] theorem Device.begin_rstOut (m : Device) (o : Operation) (plan : List PortCall) : (m.begin o plan).rstOut = m.rstOut := rfl
@[simp] theorem Device.begin_holdsLock (m : Device) (o : Operation) (plan : List PortCall) : (m.begin o plan).holdsLock = m.holdsLock := rfl
@[simp] theorem Device.begin_pollCount (m : Device) (o : Operation) (plan : List PortCall) : (m.begin o plan).pollCount = m.pollCount := rfl
@[simp] theorem Device.begin_csFault (m : Device) (o : Operation) (plan : List PortCall) : (m.begin o plan).csFault = m.csFault := rfl
@[simp] theorem Device.begin_vref (m : Device) (o : Operation) (plan : List PortCall) : (m.begin o plan).vref = m.vref := rfl
@[simp] theorem Device.begin_env (m : Device) (o : Operation) (plan : List PortCall) : (m.begin o plan).env = m.env := rfl
@[simp] theorem Device.begin_op (m : Device) (o : Operation) (plan : List PortCall) : (m.begin o plan).op = some { operation := o, rest := plan, data := none } := rfl

/-! ### `Device.applyEffect` -/

@[simp] theorem Device.applyEffect_nothing (m : Device) (rx : List Byte) : m.applyEffect .nothing rx = m := rfl
@[simp] theorem Device.applyEffect_enterReset (m : Device) (rx : List Byte) : m.applyEffect .enterReset rx = { m with fsm := .reset, pollCount := 0 } := rfl
@[simp] theorem Device.applyEffect_enterConverting (m : Device) (rx : List Byte) : m.applyEffect .enterConverting rx = { m with fsm := .converting, pollCount := 0 } := rfl
@[simp] theorem Device.applyEffect_commit (m : Device) (rx : List Byte) (r g : Byte) : m.applyEffect (.commit r g) rx = { m with cfgRate := some r, cfgGain := some g, fsm := .configured } := rfl
@[simp] theorem Device.applyEffect_enterIdle (m : Device) (rx : List Byte) : m.applyEffect .enterIdle rx = { m with fsm := .idle } := rfl
@[simp] theorem Device.applyEffect_keepData (m : Device) (rx : List Byte) : m.applyEffect .keepData rx = { m with op := m.op.map fun o => { o with data := codeOfRx rx } } := rfl

@[simp] theorem Device.applyEffect_csOut (m : Device) (e : Effect) (rx : List Byte) :
    (m.applyEffect e rx).csOut = m.csOut := by
  cases e <;> rfl
@[simp] theorem Device.applyEffect_rstOut (m : Device) (e : Effect) (rx : List Byte) :
    (m.applyEffect e rx).rstOut = m.rstOut := by
  cases e <;> rfl
@[simp] theorem Device.applyEffect_holdsLock (m : Device) (e : Effect) (rx : List Byte) :
    (m.applyEffect e rx).holdsLock = m.holdsLock := by
  cases e <;> rfl
@[simp] theorem Device.applyEffect_csFault (m : Device) (e : Effect) (rx : List Byte) :
    (m.applyEffect e rx).csFault = m.csFault := by
  cases e <;> rfl
@[simp] theorem Device.applyEffect_vref (m : Device) (e : Effect) (rx : List Byte) :
    (m.applyEffect e rx).vref = m.vref := by
  cases e <;> rfl
@[simp] theorem Device.applyEffect_env (m : Device) (e : Effect) (rx : List Byte) :
    (m.applyEffect e rx).env = m.env := by
  cases e <;> rfl

/-! ### `Device.afterAbort` -/

@[simp] theorem Device.afterAbort_csOut (m : Device) (o : Operation) : (m.afterAbort o).csOut = m.csOut := by
  cases o <;> rfl
@[simp] theorem Device.afterAbort_rstOut (m : Device) (o : Operation) : (m.afterAbort o).rstOut = m.rstOut := by
  cases o <;> rfl
@[simp] theorem Device.afterAbort_holdsLock (m : Device) (o : Operation) : (m.afterAbort o).holdsLock = m.holdsLock := by
  cases o <;> rfl
@[simp] theorem Device.afterAbort_pollCount (m : Device) (o : Operation) : (m.afterAbort o).pollCount = m.pollCount := by
  cases o <;> rfl
@[simp] theorem Device.afterAbort_csFault (m : Device) (o : Operation) : (m.afterAbort o).csFault = m.csFault := by
  cases o <;> rfl
@[simp] theorem Device.afterAbort_op (m : Device) (o : Operation) : (m.afterAbort o).op = m.op := by
  cases o <;> rfl
@[simp] theorem Device.afterAbort_vref (m : Device) (o : Operation) : (m.afterAbort o).vref = m.vref := by
  cases o <;> rfl
@[simp] theorem Device.afterAbort_env (m : Device) (o : Operation) : (m.afterAbort o).env = m.env := by
  cases o <;> rfl

/-! ### Answers -/

@[simp] theorem Env.afterCS_requests (e : Env) : e.afterCS.requests = e.requests := rfl
@[simp] theorem Env.afterCS_responses (e : Env) : e.afterCS.responses = e.responses := rfl
@[simp] theorem Env.afterCS_csAnswers (e : Env) : e.afterCS.csAnswers = e.csAnswers.tail := rfl
@[simp] theorem Env.afterCS_rstAnswers (e : Env) : e.afterCS.rstAnswers = e.rstAnswers := rfl
@[simp] theorem Env.afterCS_drdyAnswers (e : Env) : e.afterCS.drdyAnswers = e.drdyAnswers := rfl
@[simp] theorem Env.afterCS_xferAnswers (e : Env) : e.afterCS.xferAnswers = e.xferAnswers := rfl
@[simp] theorem Env.afterCS_drawn (e : Env) : e.afterCS.drawn = e.drawn + 1 := rfl
@[simp] theorem Env.afterRST_requests (e : Env) : e.afterRST.requests = e.requests := rfl
@[simp] theorem Env.afterRST_responses (e : Env) : e.afterRST.responses = e.responses := rfl
@[simp] theorem Env.afterRST_csAnswers (e : Env) : e.afterRST.csAnswers = e.csAnswers := rfl
@[simp] theorem Env.afterRST_rstAnswers (e : Env) : e.afterRST.rstAnswers = e.rstAnswers.tail := rfl
@[simp] theorem Env.afterRST_drdyAnswers (e : Env) : e.afterRST.drdyAnswers = e.drdyAnswers := rfl
@[simp] theorem Env.afterRST_xferAnswers (e : Env) : e.afterRST.xferAnswers = e.xferAnswers := rfl
@[simp] theorem Env.afterRST_drawn (e : Env) : e.afterRST.drawn = e.drawn + 1 := rfl
@[simp] theorem Env.afterDRDY_requests (e : Env) : e.afterDRDY.requests = e.requests := rfl
@[simp] theorem Env.afterDRDY_responses (e : Env) : e.afterDRDY.responses = e.responses := rfl
@[simp] theorem Env.afterDRDY_csAnswers (e : Env) : e.afterDRDY.csAnswers = e.csAnswers := rfl
@[simp] theorem Env.afterDRDY_rstAnswers (e : Env) : e.afterDRDY.rstAnswers = e.rstAnswers := rfl
@[simp] theorem Env.afterDRDY_drdyAnswers (e : Env) : e.afterDRDY.drdyAnswers = e.drdyAnswers.tail := rfl
@[simp] theorem Env.afterDRDY_xferAnswers (e : Env) : e.afterDRDY.xferAnswers = e.xferAnswers := rfl
@[simp] theorem Env.afterDRDY_drawn (e : Env) : e.afterDRDY.drawn = e.drawn + 1 := rfl
@[simp] theorem Env.afterXfer_requests (e : Env) : e.afterXfer.requests = e.requests := rfl
@[simp] theorem Env.afterXfer_responses (e : Env) : e.afterXfer.responses = e.responses := rfl
@[simp] theorem Env.afterXfer_csAnswers (e : Env) : e.afterXfer.csAnswers = e.csAnswers := rfl
@[simp] theorem Env.afterXfer_rstAnswers (e : Env) : e.afterXfer.rstAnswers = e.rstAnswers := rfl
@[simp] theorem Env.afterXfer_drdyAnswers (e : Env) : e.afterXfer.drdyAnswers = e.drdyAnswers := rfl
@[simp] theorem Env.afterXfer_xferAnswers (e : Env) : e.afterXfer.xferAnswers = e.xferAnswers.tail := rfl
@[simp] theorem Env.afterXfer_drawn (e : Env) : e.afterXfer.drawn = e.drawn + 1 := rfl

/-! ### `State.putDevice`, `State.withLane`, `State.takeTurn`, `State.popRequest` -/

@[simp] theorem State.putDevice_params (s : State) (m : Device) : (s.putDevice m).params = s.params := rfl
@[simp] theorem State.putDevice_devices (s : State) (m : Device) : (s.putDevice m).devices = s.devices.set s.cur m := rfl
@[simp] theorem State.putDevice_busOwner (s : State) (m : Device) : (s.putDevice m).busOwner = s.busOwner := rfl
@[simp] theorem State.putDevice_trace (s : State) (m : Device) : (s.putDevice m).trace = s.trace := rfl
@[simp] theorem State.putDevice_cur (s : State) (m : Device) : (s.putDevice m).cur = s.cur := rfl
@[simp] theorem State.putDevice_turns (s : State) (m : Device) : (s.putDevice m).turns = s.turns := rfl
@[simp] theorem State.putDevice_ticks (s : State) (m : Device) : (s.putDevice m).ticks = s.ticks := rfl
@[simp] theorem State.withLane_params (s : State) (l : Lane) : (s.withLane l).params = s.params := rfl
@[simp] theorem State.withLane_devices (s : State) (l : Lane) : (s.withLane l).devices = s.devices.set s.cur l.dev := rfl
@[simp] theorem State.withLane_busOwner (s : State) (l : Lane) : (s.withLane l).busOwner = l.owner := rfl
@[simp] theorem State.withLane_trace (s : State) (l : Lane) : (s.withLane l).trace = s.trace ++ l.events.map fun e => (s.cur, e) := rfl
@[simp] theorem State.withLane_cur (s : State) (l : Lane) : (s.withLane l).cur = s.cur := rfl
@[simp] theorem State.withLane_turns (s : State) (l : Lane) : (s.withLane l).turns = s.turns := rfl
@[simp] theorem State.withLane_ticks (s : State) (l : Lane) : (s.withLane l).ticks = s.ticks := rfl
@[simp] theorem State.takeTurn_params (s : State) : s.takeTurn.params = s.params := rfl
@[simp] theorem State.takeTurn_devices (s : State) : s.takeTurn.devices = s.devices := rfl
@[simp] theorem State.takeTurn_busOwner (s : State) : s.takeTurn.busOwner = s.busOwner := rfl
@[simp] theorem State.takeTurn_trace (s : State) : s.takeTurn.trace = s.trace := rfl
@[simp] theorem State.takeTurn_cur (s : State) : s.takeTurn.cur = s.turn.agent := rfl
@[simp] theorem State.takeTurn_turns (s : State) : s.takeTurn.turns = s.turns.tail := rfl
@[simp] theorem State.takeTurn_ticks (s : State) : s.takeTurn.ticks = s.ticks + 1 := rfl
@[simp] theorem State.popRequest_params (s : State) (m : Device) : (s.popRequest m).params = s.params := rfl
@[simp] theorem State.popRequest_devices (s : State) (m : Device) : (s.popRequest m).devices = s.devices.set s.cur { m with env := { m.env with requests := m.env.requests.tail } } := rfl
@[simp] theorem State.popRequest_busOwner (s : State) (m : Device) : (s.popRequest m).busOwner = s.busOwner := rfl
@[simp] theorem State.popRequest_trace (s : State) (m : Device) : (s.popRequest m).trace = s.trace := rfl
@[simp] theorem State.popRequest_cur (s : State) (m : Device) : (s.popRequest m).cur = s.cur := rfl
@[simp] theorem State.popRequest_turns (s : State) (m : Device) : (s.popRequest m).turns = s.turns := rfl
@[simp] theorem State.popRequest_ticks (s : State) (m : Device) : (s.popRequest m).ticks = s.ticks := rfl

/-! ### Lanes -/

@[simp] theorem State.lane_dev (s : State) (m : Device) : (s.lane m).dev = m := rfl
@[simp] theorem State.lane_owner (s : State) (m : Device) : (s.lane m).owner = s.busOwner := rfl
@[simp] theorem State.lane_events (s : State) (m : Device) : (s.lane m).events = [] := rfl
@[simp] theorem Lane.record_dev (l : Lane) (e : Event) (m : Device) : (l.record e m).dev = m := rfl
@[simp] theorem Lane.record_owner (l : Lane) (e : Event) (m : Device) : (l.record e m).owner = l.owner := rfl
@[simp] theorem Lane.record_events (l : Lane) (e : Event) (m : Device) : (l.record e m).events = l.events ++ [e] := rfl

end Sys2Proof.Machine
end

