-- ==== Sys2Proof/Laws/Monitor.lean ====
section
/-! SUPPORT. What the monitor of a trace and the plan of an operation can do, said once: what leave of the monitor means
for each kind of event, how a plan that keeps the rules goes on, and what the block's own frames decode to. -/

namespace Sys2Proof.Machine

/-! ### The block's own frames -/

/-- What legal parameters are, in numbers. -/
theorem legal_iff (cp : ChipParams) :
    cp.legal = true ↔
      cp.wakeupByte ≠ 0xFC#8 ∧ cp.wakeupByte ≠ 0x01#8 ∧ cp.wakeupByte.extractLsb' 4 4 ≠ 5#4 ∧ 3 ≤ cp.regMax ∧
      cp.regMax < 16 ∧ cp.nAin ≤ cp.chCom ∧ cp.chCom < 16 ∧ 0 < cp.chW ∧ cp.chW % 8 = 0 ∧
      ∀ x ∈ cp.gains, ∃ k < 8, x = 2 ^ k := by
  simp only [ChipParams.legal, Bool.and_eq_true, decide_eq_true_eq, and_assoc, List.all_eq_true, List.any_eq_true,
    List.mem_range]
  exact Iff.rfl

/-- A legal gain index is a code of 3 bits. -/
theorem gain_lt (cp : ChipParams) (h : cp.legal = true) (g : Byte) (hg : validGain cp g = true) : g.toNat < 8 := by
  obtain ⟨k, hk, e⟩ := ((legal_iff cp).1 h).2.2.2.2.2.2.2.2.2 _ (of_decide_eq_true hg)
  have same : g.toNat = k := Nat.pow_right_injective (le_refl 2) e
  omega

/-- A WREG frame decodes as one, whatever the fill byte: its first two bytes differ. -/
theorem decodeChip_wregFrame (cp : ChipParams) (r : Nibble) (v : Byte) :
    decodeChip cp (wregFrame r v) = decodeWreg cp r 0#8 v := by
  have first : ∀ r : Nibble,
      (0x50#8 ||| r.setWidth 8).extractLsb' 4 4 = 5#4 ∧ (0x50#8 ||| r.setWidth 8).extractLsb' 0 4 = r ∧
      (0x50#8 ||| r.setWidth 8) ≠ 0#8 := by decide
  obtain ⟨a, b, c⟩ := first r
  have nofill : ¬(0x50#8 ||| r.setWidth 8 = cp.fillByte ∧ (0#8 : Byte) = cp.fillByte ∧ v = cp.fillByte) := by
    rintro ⟨h1, h2, _⟩
    rw [← h2] at h1
    exact c h1
  simp [decodeChip, wregFrame, wregOpcode, a, b, nofill]

theorem decodeChip_drate (cp : ChipParams) (h : cp.legal = true) (v : Byte) :
    decodeChip cp (wregFrame drateReg v) = .ok (.wreg drateReg v) := by
  rw [legal_iff] at h
  rw [decodeChip_wregFrame]
  simp [decodeWreg, drateReg, muxReg]
  omega

theorem decodeChip_adcon (cp : ChipParams) (h : cp.legal = true) (v : Byte) :
    decodeChip cp (wregFrame adconReg v) = .ok (.wreg adconReg v) := by
  rw [legal_iff] at h
  rw [decodeChip_wregFrame]
  simp [decodeWreg, adconReg, muxReg]
  omega

@[simp] theorem decodeChip_syncFrame (cp : ChipParams) : decodeChip cp syncFrame = .ok .sync := by
  simp [decodeChip, syncFrame]

@[simp] theorem decodeChip_rdataFrame (cp : ChipParams) : decodeChip cp rdataFrame = .ok .rdata := by
  simp [decodeChip, rdataFrame, rdataByte, syncByte]

theorem decodeChip_wakeupFrame (cp : ChipParams) (h : cp.legal = true) : decodeChip cp (wakeupFrame cp) = .ok .wakeup := by
  rw [legal_iff] at h
  simp [decodeChip, wakeupFrame, rdataByte, syncByte, h]

@[simp] theorem decodeChip_datareadFrame (cp : ChipParams) : decodeChip cp (datareadFrame cp) = .ok .dataread := by
  simp [decodeChip, datareadFrame]

/-- With legal parameters a channel fits a nibble. -/
theorem channel_lt (cp : ChipParams) (h : cp.legal = true) (x : Nat) (hx : isChannel cp x = true) : x < 16 := by
  rw [legal_iff] at h
  have named : x < cp.nAin ∨ x = cp.chCom := of_decide_eq_true hx
  omega

/-- The nibbles of a mux byte. -/
theorem muxByte_nibbles (p n : Nat) (hp : p < 16) (hn : n < 16) :
    (muxByte p n).extractLsb' 4 4 = BitVec.ofNat 4 p ∧ (muxByte p n).extractLsb' 0 4 = BitVec.ofNat 4 n := by
  have all : ∀ a b : Fin 16,
      (muxByte a b).extractLsb' 4 4 = BitVec.ofNat 4 a ∧ (muxByte a b).extractLsb' 0 4 = BitVec.ofNat 4 b := by decide
  exact all ⟨p, hp⟩ ⟨n, hn⟩

theorem decodeChip_mux (cp : ChipParams) (h : cp.legal = true) (p n : Nat) (hv : validChannels cp p n = true) :
    decodeChip cp (wregFrame muxReg (muxByte p n)) = .ok (.muxsel (BitVec.ofNat 4 p) (BitVec.ofNat 4 n)) := by
  simp only [validChannels, Bool.and_eq_true] at hv
  have hp := channel_lt cp h p hv.1
  have hn := channel_lt cp h n hv.2
  obtain ⟨h1, h2⟩ := muxByte_nibbles p n hp hn
  rw [legal_iff] at h
  rw [decodeChip_wregFrame]
  simp [decodeWreg, muxReg, isMuxCode, h1, h2, Nat.mod_eq_of_lt hp, Nat.mod_eq_of_lt hn, hv.1, hv.2]
  omega

/-! ### Channel operands in a request -/

/-- A number of `k` bytes survives the way to bytes and back. -/
theorem joinNat_bytesOfNat (k x : Nat) (h : x < 256 ^ k) : joinNat (bytesOfNat k x) = x := by
  have go : ∀ k acc, (bytesOfNat k x).foldl (fun a b => 256 * a + b.toNat) acc = acc * 256 ^ k + x % 256 ^ k := by
    intro k
    induction k with
    | zero => intro acc; simp [bytesOfNat, Nat.mod_one]
    | succ k ih =>
      intro acc
      simp only [bytesOfNat, List.foldl_cons, ih, BitVec.toNat_ofNat, show (2 : Nat) ^ 8 = 256 from rfl]
      rw [Nat.pow_succ, Nat.mod_mul (x := x) (a := 256 ^ k) (b := 256)]
      ring
  simpa [joinNat, Nat.mod_eq_of_lt h] using go k 0

/-- Two channel operands that fit are what their words are read as. -/
theorem splitChannels_channelWords (cp : ChipParams) (h : cp.legal = true) (p n : Nat) (hp : p < 2 ^ cp.chW)
    (hn : n < 2 ^ cp.chW) : splitChannels cp (channelWords cp p n) = some (p, n) := by
  have width : (2 : Nat) ^ cp.chW = 256 ^ cp.channelBytes := by
    obtain ⟨-, -, -, -, -, -, -, -, h8, -⟩ := (legal_iff cp).1 h
    rw [show (256 : Nat) = 2 ^ 8 from rfl, ← Nat.pow_mul, ChipParams.channelBytes]
    congr 1
    omega
  have len : ∀ x, (bytesOfNat cp.channelBytes x).length = cp.channelBytes := Laws.FrameLength.length_bytesOfNat _
  rw [width] at hp hn
  have two : cp.channelBytes + cp.channelBytes = 2 * cp.channelBytes := by omega
  simp [splitChannels, channelWords, len, two, List.take_left', List.drop_left', joinNat_bytesOfNat, hp, hn]

/-! ### The monitor -/

theorem Mon.run_append (cp : ChipParams) (events more : List Event) (μ : Mon) (h : Mon.run cp events = some μ) :
    Mon.run cp (events ++ more) = more.foldlM (Mon.next cp) μ := by
  simp only [Mon.run] at h ⊢
  simp [List.foldlM_append, h]

/-- `Acq`: the lock was free, and a new window begins. -/
theorem Mon.next_acq {cp : ChipParams} {μ μ' : Mon} (h : μ.next cp .acq = some μ') :
    μ.held = false ∧ μ.resting = false ∧ μ' = { μ with held := true, phase := .fresh } := by
  simp only [Mon.next] at h
  split at h
  · simp at h
  · simp only [Mon.free] at h
    grind

/-- `Rel`: the lock was held, with CS not low. -/
theorem Mon.next_rel {cp : ChipParams} {μ μ' : Mon} (h : μ.next cp .rel = some μ') :
    μ.held = true ∧ μ.low = false ∧ μ.resting = false ∧ μ' = { μ with held := false } := by
  simp only [Mon.next] at h
  split at h
  · simp at h
  · simp only [Mon.free] at h
    grind

/-- A CS level that was driven with success: a new window begins. -/
theorem Mon.next_cs {cp : ChipParams} {μ μ' : Mon} {l : Level} (h : μ.next cp (.cs l .ok) = some μ') :
    μ.held = true ∧ μ.resting = false ∧ μ' = { μ with low := decide (l = .low), phase := .fresh } := by
  simp only [Mon.next] at h
  split at h
  · simp at h
  · cases l <;> simp only [Mon.free] at h <;> grind

/-- A level of the reset line: it is to be held, and the power-up delay is to be waited for again. -/
theorem Mon.next_rst {cp : ChipParams} {μ μ' : Mon} {l : Level} (h : μ.next cp (.rst l .ok) = some μ') :
    μ.held = true ∧ μ.low = false ∧ μ.resting = false ∧ μ' = { μ with settled := false, resting := true } := by
  simp only [Mon.next] at h
  split at h
  · simp at h
  · simp only [Mon.free] at h
    grind

/-- A sleep: it never undoes the power-up delay. -/
theorem Mon.next_sleep {cp : ChipParams} {μ μ' : Mon} {d : Duration} (h : μ.next cp (.sleep d) = some μ') :
    μ.held = true ∧ μ'.held = μ.held ∧ μ'.low = μ.low ∧ (μ.settled = true → μ'.settled = true) := by
  simp only [Mon.next] at h
  split at h
  · grind
  · simp only [Mon.free] at h
    split at h
    · simp only [Option.map_eq_some_iff] at h
      grind
    · cases h

/-- A transfer, whatever comes of it: in a window, after the power-up delay, and in its turn. -/
theorem Mon.next_xfer {cp : ChipParams} {μ μ' : Mon} {tx : List Byte} {res : XferResult}
    (h : μ.next cp (.xfer tx res) = some μ') :
    μ.held = true ∧ μ.low = true ∧ μ.settled = true ∧ μ.resting = false ∧
    ∃ φ, μ.phase.afterFrame cp tx = some φ ∧
      μ' = { μ with phase := (match res with | .rx _ => φ | .transportError => .over) } := by
  simp only [Mon.next] at h
  split at h
  · simp at h
  · by_cases admits : μ.admits = true
    · have where_ := admits
      simp only [Mon.admits, Bool.and_eq_true] at where_
      cases res <;> simp only [Mon.free, admits, if_true, Option.map_eq_some_iff] at h <;> grind
    · cases res <;> simp [Mon.free, admits] at h

/-- A level of the data-ready line, read in a wait. -/
theorem Mon.next_drdy {cp : ChipParams} {μ μ' : Mon} {l : Level} (h : μ.next cp (.drdy (.level l)) = some μ') :
    μ.held = true ∧ μ.resting = false ∧ ∃ φ, μ.phase.afterLevel l = some φ ∧ μ' = { μ with phase := φ } := by
  simp only [Mon.next] at h
  split at h
  · simp at h
  · simp only [Mon.free] at h
    split at h
    · simp only [Option.map_eq_some_iff] at h
      grind
    · cases h

/-! ### Plans -/

/-- What the write of a port call does to `fsm` and the cache is what `track` says. -/
theorem Effect.track_eq (m : Device) (e : Effect) (rx : List Byte) :
    e.track m.fsm m.cfgRate.isSome = ((m.applyEffect e rx).fsm, (m.applyEffect e rx).cfgRate.isSome) := by
  cases e <;> simp [Effect.track]

/-- A plan that keeps the rules is at its `Release`, or goes on with its first call. -/
theorem planOk_cons {ps : Params} {μ : Mon} {f : Fsm} {c : Bool} {call : PortCall} {rest : List PortCall}
    (h : planOk ps μ f c (call :: rest) = true) :
    (∃ st, call = .release st ∧ rest = [] ∧ (∃ μ', μ.next ps.chip .rel = some μ') ∧
      (st = .ok → f.operating = true ∧ c = true ∧ μ.settled = true)) ∨
    ((∀ st, call ≠ .release st) ∧ ∃ μ', μ.next ps.chip call.success = some μ' ∧ call.placed μ.phase = true ∧
      call.effect.legal ps = true ∧ planOk ps μ' (call.effect.track f c).1 (call.effect.track f c).2 rest = true) := by
  cases call
  case release st =>
    left
    simp only [planOk, Bool.and_eq_true, Option.isSome_iff_exists, List.isEmpty_iff, Bool.or_eq_true,
      decide_eq_true_eq] at h
    refine ⟨st, rfl, h.1.2, h.1.1, fun e => ?_⟩
    have last := h.2
    subst e
    simp at last
    exact ⟨last.1.1, last.1.2, last.2⟩
  all_goals
    right
    refine ⟨by simp, ?_⟩
    simp only [planOk] at h
    split at h
    · cases h
    · rename_i μ' hμ
      simp only [Bool.and_eq_true] at h
      exact ⟨μ', hμ, h.1.1, h.1.2, h.2⟩

/-- The other way round, for a call that is no `Release`. -/
theorem planOk_cons_of {ps : Params} {μ μ' : Mon} {f : Fsm} {c : Bool} {call : PortCall} {rest : List PortCall}
    (hr : ∀ st, call ≠ .release st) (h : μ.next ps.chip call.success = some μ') (hp : call.placed μ.phase = true)
    (hl : call.effect.legal ps = true)
    (hq : planOk ps μ' (call.effect.track f c).1 (call.effect.track f c).2 rest = true) :
    planOk ps μ f c (call :: rest) = true := by
  cases call <;> simp_all [planOk]

end Sys2Proof.Machine
end

