-- ==== Sys2Proof/Laws/Ops.lean ====
section
/-! SUPPORT. One lemma per shared operation that says all it can do, for later proofs to cite in place of its definition:
the answers and responses, each port call for each answer, runs of port calls, and one turn. -/

namespace Sys2Proof.Machine

/-! ### Records in the list of device instances -/

theorem set_self {s : State} {m : Device} (h : s.devices[s.cur]? = some m) : s.devices.set s.cur m = s.devices := by
  apply List.ext_getElem?
  intro i
  rw [List.getElem?_set]
  split
  · subst_vars
    split
    · exact h.symm
    · rename_i hlt
      rw [List.getElem?_eq_none (by omega)]
  · rfl

theorem cur_lt {s : State} {m : Device} (h : s.devices[s.cur]? = some m) : s.cur < s.devices.length :=
  (List.getElem?_eq_some_iff.1 h).1

theorem getElem?_putDevice {s : State} {m : Device} (h : s.devices[s.cur]? = some m) (m' : Device) :
    (s.putDevice m').devices[s.cur]? = some m' := by
  simp [cur_lt h]

/-! ### Answers and responses -/

theorem onDevice_eq {s : State} {m : Device} (h : s.devices[s.cur]? = some m)
    (f : Device → Host.Outcome Device Fault Refusal) :
    onDevice s f = mapNext (fun m' => s.putDevice m') (f m) := by
  simp only [onDevice, h]
  rfl

theorem reply_eq {s : State} {m : Device} (h : s.devices[s.cur]? = some m) (st : Status) (payload : List Byte) :
    reply st payload s = .next (s.putDevice (m.respond (responseFrame st payload))) := by
  rw [reply, onDevice_eq h]
  rfl

theorem replyResult_some {s : State} {m : Device} (h : s.devices[s.cur]? = some m) (bytes : List Byte) :
    replyResult (some bytes) s = .next (s.putDevice (m.respond (0x00#8 :: bytes))) := reply_eq h .ok bytes

theorem replyResult_none {s : State} {m : Device} (h : s.devices[s.cur]? = some m) :
    replyResult none s = .next (s.putDevice (m.respond [0x04#8])) := reply_eq h .configError []

theorem mapNext_next {α β : Type} {f : α → β} {o : Host.Outcome α Fault Refusal} {b : β} (h : mapNext f o = .next b) :
    ∃ a, o = .next a ∧ f a = b := by
  cases o with
  | next a => exact ⟨a, rfl, by simpa [mapNext] using h⟩
  | fault r => cases h
  | refused r => cases h

theorem onDevice_next {s t : State} {f : Device → Host.Outcome Device Fault Refusal} (h : onDevice s f = .next t) :
    ∃ m m', s.devices[s.cur]? = some m ∧ f m = .next m' ∧ t = s.putDevice m' := by
  cases hm : s.devices[s.cur]? with
  | none => simp [onDevice, hm] at h
  | some m =>
    rw [onDevice_eq hm] at h
    obtain ⟨m', h1, h2⟩ := mapNext_next h
    exact ⟨m, m', rfl, h1, h2.symm⟩

theorem sendFrame_due {s : State} {m : Device} {tx : List Byte} (h : s.devices[s.cur]? = some m)
    (hd : m.dueFrame = some tx) : sendFrame tx s = .next s.portStep := by
  simp [sendFrame, h, hd]

theorem sendFrame_next {s t : State} {tx : List Byte} (h : sendFrame tx s = .next t) :
    ∃ m, s.devices[s.cur]? = some m ∧ m.dueFrame = some tx ∧ t = s.portStep := by
  unfold sendFrame at h
  split at h
  · cases h
  · rename_i m hm
    split at h
    · rename_i hd
      exact ⟨m, hm, hd, by simpa using h.symm⟩
    · cases h

theorem dueFrame_eq_some {m : Device} {tx : List Byte} (h : m.dueFrame = some tx) :
    ∃ o eff rest, m.op = some o ∧ o.rest = .transfer tx eff :: rest := by
  unfold Device.dueFrame at h
  split at h
  · cases h
  · rename_i o ho
    split at h
    · rename_i hr
      cases h
      exact ⟨o, _, _, ho, hr⟩
    · cases h

/-! ### Port calls, answer by answer -/

theorem Lane.next_idle {me : Nat} {l : Lane} (h : l.dev.op = none) : l.next me = l := by
  simp [Lane.next, h]

theorem Lane.acquire_free {me : Nat} {rest : List PortCall} {l : Lane} (h : l.owner = none) :
    l.acquire me rest =
      { dev := { l.dev with holdsLock := true }.goto rest, owner := some me, events := l.events ++ [.acq] } := by
  simp [Lane.acquire, h]

theorem Lane.acquire_held {me j : Nat} {rest : List PortCall} {l : Lane} (h : l.owner = some j) :
    l.acquire me rest = l := by
  simp [Lane.acquire, h]

theorem Lane.setCS_ok {me : Nat} {lvl : Level} {eff : Effect} {rest : List PortCall} {l : Lane}
    (h : l.dev.env.csAnswer me = .ok) :
    l.setCS me lvl eff rest = l.record (.cs lvl .ok)
      (({ l.dev with env := l.dev.env.afterCS, csOut := lineOf lvl }.goto rest).applyEffect eff []) := by
  simp [Lane.setCS, h]

theorem Lane.setCS_error {me : Nat} {lvl : Level} {eff : Effect} {rest : List PortCall} {l : Lane}
    (h : l.dev.env.csAnswer me = .gpioError) :
    l.setCS me lvl eff rest = l.record (.cs lvl .gpioError)
      ({ l.dev with env := l.dev.env.afterCS, csOut := .unknown }.abort .gpioError) := by
  simp [Lane.setCS, h]

theorem Lane.setRST_ok {me : Nat} {lvl : Level} {rest : List PortCall} {l : Lane}
    (h : l.dev.env.rstAnswer me = .ok) :
    l.setRST me lvl rest = l.record (.rst lvl .ok)
      ({ l.dev with env := l.dev.env.afterRST, rstOut := lineOf lvl }.goto rest) := by
  simp [Lane.setRST, h]

theorem Lane.setRST_error {me : Nat} {lvl : Level} {rest : List PortCall} {l : Lane}
    (h : l.dev.env.rstAnswer me = .gpioError) :
    l.setRST me lvl rest = l.record (.rst lvl .gpioError)
      ({ l.dev with env := l.dev.env.afterRST, rstOut := .unknown }.abort .gpioError) := by
  simp [Lane.setRST, h]

theorem Lane.transfer_rx {me : Nat} {tx : List Byte} {eff : Effect} {rest : List PortCall} {l : Lane} {b0 b1 b2 : Byte}
    (h : l.dev.env.xferAnswer me = .rx b0 b1 b2) :
    l.transfer me tx eff rest = l.record (.xfer tx (.rx ([b0, b1, b2].take tx.length)))
      (({ l.dev with env := l.dev.env.afterXfer }.goto rest).applyEffect eff ([b0, b1, b2].take tx.length)) := by
  simp [Lane.transfer, h]

theorem Lane.transfer_error {me : Nat} {tx : List Byte} {eff : Effect} {rest : List PortCall} {l : Lane}
    (h : l.dev.env.xferAnswer me = .transportError) :
    l.transfer me tx eff rest = l.record (.xfer tx .transportError)
      ({ l.dev with env := l.dev.env.afterXfer }.abort .transportError) := by
  simp [Lane.transfer, h]

theorem Lane.readDRDY_awaited {me : Nat} {awaited : Level} {bound : Nat} {rest : List PortCall} {l : Lane}
    (h : l.dev.env.drdyAnswer me = .level awaited) :
    l.readDRDY me awaited bound rest = l.record (.drdy (.level awaited))
      ({ l.dev with env := l.dev.env.afterDRDY, pollCount := l.dev.pollCount + 1 }.goto rest) := by
  simp [Lane.readDRDY, h]

theorem Lane.readDRDY_again {me : Nat} {awaited lvl : Level} {bound : Nat} {rest : List PortCall} {l : Lane}
    (h : l.dev.env.drdyAnswer me = .level lvl) (hne : lvl ≠ awaited) (hlt : l.dev.pollCount + 1 < bound) :
    l.readDRDY me awaited bound rest = l.record (.drdy (.level lvl))
      ({ l.dev with env := l.dev.env.afterDRDY, pollCount := l.dev.pollCount + 1 }.goto
        (.pollSleep awaited bound :: rest)) := by
  have : ¬ bound ≤ l.dev.pollCount + 1 := by omega
  simp [Lane.readDRDY, h, hne, this]

theorem Lane.readDRDY_timeout {me : Nat} {awaited lvl : Level} {bound : Nat} {rest : List PortCall} {l : Lane}
    (h : l.dev.env.drdyAnswer me = .level lvl) (hne : lvl ≠ awaited) (hle : bound ≤ l.dev.pollCount + 1) :
    l.readDRDY me awaited bound rest = l.record (.drdy (.level lvl))
      ({ l.dev with env := l.dev.env.afterDRDY, pollCount := l.dev.pollCount + 1 }.abort .timeout) := by
  simp [Lane.readDRDY, h, hne, hle]

theorem Lane.readDRDY_error {me : Nat} {awaited : Level} {bound : Nat} {rest : List PortCall} {l : Lane}
    (h : l.dev.env.drdyAnswer me = .gpioError) :
    l.readDRDY me awaited bound rest = l.record (.drdy .gpioError)
      ({ l.dev with env := l.dev.env.afterDRDY }.abort .gpioError) := by
  simp [Lane.readDRDY, h]

theorem Lane.cleanupCS_ok {me : Nat} {rest : List PortCall} {l : Lane} (h : l.dev.env.csAnswer me = .ok) :
    l.cleanupCS me rest = l.record (.cs .high .ok)
      ({ l.dev with env := l.dev.env.afterCS, csOut := .high }.goto rest) := by
  simp [Lane.cleanupCS, h]

theorem Lane.cleanupCS_error {me : Nat} {rest : List PortCall} {l : Lane} (h : l.dev.env.csAnswer me = .gpioError) :
    l.cleanupCS me rest = l.record (.cs .high .gpioError)
      ({ l.dev with env := l.dev.env.afterCS, csOut := .unknown, csFault := true }.goto rest) := by
  simp [Lane.cleanupCS, h]

theorem Device.conclude_ok (m : Device) (o : InProgress) : m.conclude o .ok = m.respond (0x00#8 :: o.payload) := rfl

theorem Device.conclude_error (m : Device) (o : InProgress) {st : Status} (h : st ≠ .ok) :
    m.conclude o st = (m.afterAbort o.operation).respond [st.code] := by
  cases st with
  | ok => exact absurd rfl h
  | transportError => rfl
  | gpioError => rfl
  | timeout => rfl
  | configError => rfl

/-! ### Runs of port calls -/

@[simp] theorem Lane.run_zero (me : Nat) (l : Lane) : Lane.run me 0 l = l := rfl

theorem Lane.run_succ (me k : Nat) (l : Lane) : Lane.run me (k + 1) l = Lane.run me k (l.next me) := rfl

theorem Lane.run_add (me : Nat) : ∀ (a b : Nat) (l : Lane), Lane.run me (a + b) l = Lane.run me b (Lane.run me a l)
  | 0, b, l => by simp
  | a + 1, b, l => by
    rw [show a + 1 + b = (a + b) + 1 by omega, Lane.run_succ, Lane.run_succ]
    exact Lane.run_add me a b (l.next me)

/-- Where the next call does nothing (no operation, a hold), nor does a run. -/
theorem Lane.run_fixed {me : Nat} {l : Lane} (h : l.next me = l) : ∀ k, Lane.run me k l = l
  | 0 => rfl
  | k + 1 => by rw [Lane.run_succ, h]; exact Lane.run_fixed h k

theorem Lane.run_idle {me : Nat} {l : Lane} (h : l.dev.op = none) (k : Nat) : Lane.run me k l = l :=
  Lane.run_fixed (Lane.next_idle h) k

/-- What every port call keeps, a run keeps. -/
theorem Lane.run_keeps {me : Nat} {P : Lane → Prop} (step : ∀ l, P l → P (l.next me)) :
    ∀ (k : Nat) (l : Lane), P l → P (Lane.run me k l)
  | 0, _, h => h
  | k + 1, l, h => Lane.run_keeps step k (l.next me) (step l h)

theorem otherLevel_ne (l : Level) : otherLevel l ≠ l := by
  cases l with
  | low => simp [otherLevel]
  | high => simp [otherLevel]

theorem pollEvents_succ (l : Level) (k : Nat) :
    pollEvents l (k + 1) = [.drdy (.level l), .sleep .tPoll] ++ pollEvents l k := by
  simp [pollEvents, List.replicate_succ]

/-- `k` reads of a wait that find the other level, each with its sleep, below the bound. -/
theorem Lane.run_polls (me : Nat) (awaited : Level) (bound : Nat) (rest : List PortCall) (more : List DrdyAnswer) :
    ∀ (k : Nat) (l : Lane) (o : InProgress), l.dev.op = some o → o.rest = .readDRDY awaited bound :: rest →
      l.dev.pollCount + k < bound →
      l.dev.env.drdyAnswers = List.replicate k (.level (otherLevel awaited)) ++ more →
      Lane.run me (2 * k) l =
        { l with
          dev := { l.dev with
            pollCount := l.dev.pollCount + k
            env := { l.dev.env with drdyAnswers := more, drawn := l.dev.env.drawn + k } }
          events := l.events ++ pollEvents (otherLevel awaited) k }
  | 0, l, o, _, _, _, h => by
    simp only [List.replicate_zero, List.nil_append] at h
    subst h
    simp [pollEvents]
  | k + 1, l, o, ho, hr, hlt, h => by
    obtain ⟨operation, calls, data⟩ := o
    simp only at hr
    subst hr
    have hne : ¬ bound ≤ l.dev.pollCount + 1 := by omega
    simp only [List.replicate_succ, List.cons_append] at h
    have two : (l.next me).next me =
        { l with
          dev := { l.dev with
            pollCount := l.dev.pollCount + 1
            env := { l.dev.env with
              drdyAnswers := List.replicate k (.level (otherLevel awaited)) ++ more
              drawn := l.dev.env.drawn + 1 } }
          events := l.events ++ [.drdy (.level (otherLevel awaited)), .sleep .tPoll] } := by
      simp [Lane.next, ho, Lane.readDRDY, Env.drdyAnswer, h, Env.afterDRDY, otherLevel_ne, hne, Lane.record,
        Device.goto, Lane.pollSleep]
    rw [show 2 * (k + 1) = 2 * k + 1 + 1 by omega, Lane.run_succ, Lane.run_succ,
      Lane.run_polls me awaited bound rest more k ((l.next me).next me) _ (by rw [two]; exact ho) rfl
        (by rw [two]; show l.dev.pollCount + 1 + k < bound; omega) (by rw [two]), two]
    simp only [pollEvents_succ, List.append_assoc, Lane.mk.injEq, Device.mk.injEq, Env.mk.injEq, true_and, and_true]
    omega

/-! ### The machine -/

theorem portStep_eq {s : State} {m : Device} (h : s.devices[s.cur]? = some m) :
    s.portStep = s.withLane ((s.lane m).next s.cur) := by
  simp [State.portStep, h]

theorem finish_eq {s : State} {m : Device} (h : s.devices[s.cur]? = some m) :
    s.finish = s.withLane (Lane.run s.cur m.eventsLeft (s.lane m)) := by
  simp [State.finish, h]

theorem withLane_lane {s : State} {m : Device} (h : s.devices[s.cur]? = some m) : s.withLane (s.lane m) = s := by
  simp [State.withLane, State.lane, set_self h]

/-- Everything a step that answers a next state can have done. -/
theorem step_next {s t : State} (h : step s = .next t) :
    ∃ m, s.takeTurn.devices[s.takeTurn.cur]? = some m ∧
      ((m.op.isSome = true ∧ (t = s.takeTurn.finish ∨ t = s.takeTurn.portStep ∨
          ∃ tx i, m.dueFrame = some tx ∧ decodeChip s.params.chip tx = .ok i ∧ exec i s.takeTurn = .next t)) ∨
       (m.op = none ∧ ((m.env.requests = [] ∧ t = s.takeTurn) ∨
          ∃ bytes more i, m.env.requests = bytes :: more ∧ decodeHost s.params.chip bytes = .ok i ∧
            (exec i (s.takeTurn.popRequest m) = .next t ∨ beginOp i (s.takeTurn.popRequest m) = .next t)))) := by
  unfold step runTurn at h
  split at h
  · cases h
  · rename_i m hm
    refine ⟨m, hm, ?_⟩
    split at h
    · rename_i o ho
      left
      refine ⟨by simp [ho], ?_⟩
      unfold continueOp at h
      split at h
      · left
        simpa using h.symm
      · split at h
        · right; left
          simpa using h.symm
        · rename_i tx htx
          split at h
          · rename_i i hi
            exact Or.inr (Or.inr ⟨tx, i, htx, hi, h⟩)
          · cases h
    · rename_i ho
      right
      refine ⟨ho, ?_⟩
      unfold serveHost at h
      split at h
      · rename_i hr
        left
        exact ⟨hr, by simpa using h.symm⟩
      · rename_i bytes more hr
        split at h
        · cases h
        · rename_i i hi
          right
          refine ⟨bytes, more, i, hr, hi, ?_⟩
          split at h
          · exact Or.inl h
          · exact Or.inr h

end Sys2Proof.Machine
end

