-- ==== Sys2Proof/Tests/Slice0.lean ====
section
/-! SUPPORT. Tests of the model, and witnesses for the statements.

Expected results are from spec/95_test_vectors.md (named at each test) or written out by hand from the encodings. A
`witness_` theorem shows that the hypotheses of a statement can be met, clause by clause, at the ends of their ranges. -/

namespace Sys2Proof.Tests

open Sys2Proof Sys2Proof.Machine

/-! ### Helpers -/

/-- The state an outcome carries, if it is a next state. -/
def stateOf : Host.Outcome State Fault Refusal → Option State
  | .next s => some s
  | .fault _ => none
  | .refused _ => none

/-- The refusal an outcome carries, if it is one. -/
def refusalOf : Host.Outcome State Fault Refusal → Option Refusal
  | .next _ => none
  | .fault _ => none
  | .refused r => some r

/-- What 95_test_vectors.md shows of a device instance after an operation: its last response, `fsm`, the cache, the lines,
the poll count and the fault bit. -/
structure View where
  response : Option (List Byte)
  fsm : Fsm
  rate : Option Byte
  gain : Option Byte
  cs : Line
  rst : Line
  polls : Nat
  fault : Bool
  deriving DecidableEq, Repr

/-- That view of an outcome. -/
def viewOf (o : Host.Outcome State Fault Refusal) : Option View :=
  (stateOf o).bind fun s => s.devices[s.cur]?.map fun m =>
    { response := m.env.responses.getLast?, fsm := m.fsm, rate := m.cfgRate, gain := m.cfgGain, cs := m.csOut,
      rst := m.rstOut, polls := m.pollCount, fault := m.csFault }

/-- The last response in an outcome. -/
def responseOf (o : Host.Outcome State Fault Refusal) : Option (List Byte) := (viewOf o).bind View.response

/-- The events an outcome adds to a state whose trace is empty. -/
def eventsOf (o : Host.Outcome State Fault Refusal) : Option (List Event) :=
  (stateOf o).map fun s => s.trace.map Prod.snd

/-- 5.0 (95_test_vectors.md, default parameters). -/
def five : F64 := 0x4014000000000000#64

/-- The default parameters of 95_test_vectors.md. -/
def params : Params :=
  { chip := ChipParams.default, rates := rateEntries fun _ => 4, initPolls := 2, initDrdyLevel := .low }

/-- An environment that lets every call succeed, with these data-ready levels and these bytes for the `n`-th transfer. -/
def env (levels : List Level) (skip : Nat) (b0 b1 b2 : Byte) : Env :=
  { Env.empty with
    csAnswers := List.replicate 4 .ok, rstAnswers := List.replicate 2 .ok, drdyAnswers := levels.map .level
    xferAnswers := List.replicate skip (.rx 0#8 0#8 0#8) ++ [.rx b0 b1 b2] }

/-- A device instance after construction. -/
def fresh (e : Env) : Device := { Device.constructed five with env := e }

/-- A device instance with a cached configuration, as P1 step 1 leaves it. -/
def ready (r g : Byte) (e : Env) : Device :=
  { fresh e with fsm := .configured, cfgRate := some r, cfgGain := some g, csOut := .high, rstOut := .high, pollCount := 1 }

/-- A machine of one device instance. -/
def machine (m : Device) : State :=
  { params := params, devices := [m], busOwner := none, trace := [], cur := 0, turns := [], ticks := 0 }

/-- That machine with a turn to come. -/
def scheduled (m : Device) (grain : Grain) : State := { machine m with turns := [{ agent := 0, grain := grain }] }

/-- The `SCALE` result as a pattern. -/
def scaled (c : Int) (g : Byte) (v : F64) : Option F64 := scaleCode ChipParams.default (BitVec.ofInt 32 c) g v

/-! ### Well-formedness -/

theorem test_illformed_wreg_register : (Instr.wreg 0xB#4 0#8).wellFormed ChipParams.default = false := by decide
theorem test_illformed_wreg_mux_code : (Instr.wreg 1#4 0x38#8).wellFormed ChipParams.default = false := by decide
theorem test_illformed_muxsel_positive : (Instr.muxsel 9#4 0#4).wellFormed ChipParams.default = false := by decide
theorem test_illformed_muxsel_negative : (Instr.muxsel 0#4 9#4).wellFormed ChipParams.default = false := by decide
theorem test_illformed_read_aincom : (Instr.read 3 8).wellFormed ChipParams.default = false := by decide
theorem test_illformed_encmux_aincom : (Instr.encmux 3 8).wellFormed ChipParams.default = false := by decide
theorem test_wellformed_wreg_mux_other : (Instr.wreg 1#4 0x39#8).wellFormed ChipParams.default = true := by decide

/-- The decoders with the decided parameters. -/
def chipOf : List Byte → Except DecodeError Instr := decodeChip ChipParams.default
def hostOf : List Byte → Except DecodeError Instr := decodeHost ChipParams.default

/-! ### Decoding, by words written out from 30_encoding.md -/

theorem test_decode_wreg : chipOf [0b01010011#8, 0b00000000#8, 0b10100001#8] = .ok (.wreg 3#4 0xA1#8) := by rfl
theorem test_decode_muxsel : chipOf [0b01010001#8, 0b00000000#8, 0b00111000#8] = .ok (.muxsel 3#4 8#4) := by rfl
theorem test_decode_sync : chipOf [0b11111100#8] = .ok .sync := by rfl
theorem test_decode_wakeup : chipOf [0b00000000#8] = .ok .wakeup := by rfl
theorem test_decode_rdata : chipOf [0b00000001#8] = .ok .rdata := by rfl
theorem test_decode_dataread : chipOf [0b00000000#8, 0b00000000#8, 0b00000000#8] = .ok .dataread := by rfl
theorem test_decode_init : hostOf [0b00000001#8, 0b00000101#8, 0b00000010#8] = .ok (.init 5#8 2#8) := by rfl
theorem test_decode_setcfg : hostOf [0b00000010#8, 0b00000000#8, 0b00000110#8] = .ok (.setcfg 0#8 6#8) := by rfl
theorem test_decode_read : hostOf [0b00000011#8, 0b00000010#8, 0b00000101#8] = .ok (.read 2 5) := by rfl
theorem test_decode_readse : hostOf [0b00000011#8, 0b00000011#8, 0b00001000#8] = .ok (.readse 3) := by rfl
theorem test_decode_volts :
    hostOf [0b00000100#8, 0b11111111#8, 0b10000000#8, 0b00000000#8, 0b00000001#8] = .ok (.volts 0xFF800001#32) := by rfl
theorem test_decode_scale :
    hostOf [0x05#8, 0x00#8, 0x12#8, 0x34#8, 0x56#8, 0x06#8, 0x40#8, 0x0A#8, 0x66#8, 0x66#8, 0x66#8, 0x66#8, 0x66#8,
      0x67#8] = .ok (.scale 1193046#32 6#8 0x400A666666666667#64) := by rfl
theorem test_decode_encwreg : hostOf [0b00000110#8, 0b00000011#8, 0b10100001#8] = .ok (.encwreg 3#8 0xA1#8) := by rfl
theorem test_decode_encmux : hostOf [0b00000111#8, 0b00000010#8, 0b00000101#8] = .ok (.encmux 2 5) := by rfl
theorem test_decode_muxse : hostOf [0b00000111#8, 0b00000011#8, 0b00001000#8] = .ok (.muxse 3) := by rfl
theorem test_decode_decode :
    hostOf [0b00001000#8, 0b11101101#8, 0b11001011#8, 0b10101010#8] = .ok (.decode 0xED#8 0xCB#8 0xAA#8) := by rfl
theorem test_decode_encsyncwake : hostOf [0b00001001#8] = .ok .encsyncwake := by rfl
theorem test_decode_encrdata : hostOf [0b00001010#8] = .ok .encrdata := by rfl

/-- R102, and the two refusals at the end of 95_test_vectors.md 2.7. -/
theorem test_refused_requests :
    hostOf [0x0B#8] = .error (.unassignedOp 0x0B#8) ∧ hostOf [0x00#8] = .error (.unassignedOp 0x00#8) ∧
    hostOf [0x03#8, 0x03#8] = .error (.shortRequest 0x03#8) := ⟨rfl, rfl, rfl⟩

/-- R82: the count byte is 0; R88: there is no register 0xB. -/
theorem test_refused_frames :
    chipOf [0x53#8, 0x01#8, 0x00#8] = .error (.countByte 1#8) ∧
    chipOf [0x5B#8, 0x00#8, 0x00#8] = .error (.registerAddress 0xB#4) ∧
    chipOf [0x53#8] = .error (.frameLength 0x53#8) ∧ chipOf [0x10#8] = .error (.unknownCommand 0x10#8) :=
  ⟨rfl, rfl, rfl, rfl⟩

/-- Words as opcode_table.json numbers their bits: the second byte in bits 15 to 8. -/
theorem test_table_words :
    decodeTableWord 24 0xA10053 = some (.wreg 3#4 0xA1#8) ∧ decodeTableWord 24 0x020501 = some (.init 5#8 2#8) ∧
    decodeTableWord 8 0x01 = some .rdata ∧ decodeTableWord 24 0x000000 = some .dataread ∧
    decodeTableWord 8 0x00 = some .wakeup ∧ decodeTableWord 24 0x080203 = some (.readse 2) := by decide

/-! ### Codec (95_test_vectors.md 2.1 to 2.4) -/

theorem test_encwreg_highest : responseOf (exec (.encwreg 0x0A#8 0xFF#8) (machine (fresh Env.empty))) =
    some [0x00#8, 0x5A#8, 0x00#8, 0xFF#8] := by decide
theorem test_encwreg_above : responseOf (exec (.encwreg 0x0B#8 0x00#8) (machine (fresh Env.empty))) =
    some [0x04#8] := by decide
theorem test_encmux : responseOf (exec (.encmux 8 0) (machine (fresh Env.empty))) = some [0x00#8, 0x80#8] := by decide
theorem test_encmux_above : responseOf (exec (.encmux 0 9) (machine (fresh Env.empty))) = some [0x04#8] := by decide
theorem test_muxse : responseOf (exec (.muxse 3) (machine (fresh Env.empty))) = some [0x00#8, 0x38#8] := by decide
theorem test_muxse_above : responseOf (exec (.muxse 9) (machine (fresh Env.empty))) = some [0x04#8] := by decide
theorem test_decode_lowest : responseOf (exec (.decode 0x80#8 0#8 0#8) (machine (fresh Env.empty))) =
    some [0x00#8, 0xFF#8, 0x80#8, 0x00#8, 0x00#8] := by decide
theorem test_decode_mixed : responseOf (exec (.decode 0x12#8 0x34#8 0x56#8) (machine (fresh Env.empty))) =
    some [0x00#8, 0x00#8, 0x12#8, 0x34#8, 0x56#8] := by decide
theorem test_encsyncwake : responseOf (exec .encsyncwake (machine (fresh Env.empty))) = some [0x00#8, 0xFC#8, 0x00#8] := by
  decide
theorem test_encrdata : responseOf (exec .encrdata (machine (fresh Env.empty))) = some [0x00#8, 0x01#8] := by decide

/-! ### Scalar (95_test_vectors.md 2.5, 2.6) -/

/-- A result that is rounded, one that is not, and an `i32` outside the 24-bit range. -/
theorem test_scale_values :
    scaled 1193046 0#8 0x400A666666666666#64 = some 0x3FDE098DE6666666#64 ∧
    scaled (-1) 6#8 0x400A666666666666#64 = some 0xBE3A666666666666#64 ∧
    scaled 8388607 0#8 five = some 0x4013FFFFD8000000#64 ∧ scaled (-8388608) 0#8 five = some 0xC014000000000000#64 ∧
    scaled 0 0#8 five = some 0#64 ∧ scaled (-2147483648) 0#8 five = some 0xC094000000000000#64 := by decide +kernel

/-- R195: no result is infinite, not even past the largest finite value: the nearest binary64 value (R14) is that one. At
a reference of 2^1016 the code -2^31 gives -2^1024, which is past it, and the greatest code gives a value below it. -/
theorem test_scale_past_the_largest :
    scaled 2147483647 0#8 0x7FEFFFFFFFFFFFFF#64 = some 0x7FEFFFFFFFFFFFFF#64 ∧
    scaled (-2147483648) 0#8 0x7F70000000000000#64 = some 0xFFEFFFFFFFFFFFFF#64 ∧
    scaled 2147483647 0#8 0x7F70000000000000#64 = some 0x7FEFFFFFFFC00000#64 := by decide +kernel

theorem test_scale_rejects :
    scaled 5 7#8 five = none ∧ scaled 5 0#8 0#64 = none ∧ scaled 5 0#8 0xC014000000000000#64 = none ∧
    scaled 5 0#8 0x7FF8000000000000#64 = none ∧ scaled 5 0#8 0x7FF0000000000000#64 = none := by decide +kernel

theorem test_scale_response :
    responseOf (exec (.scale 1193046#32 0#8 0x400A666666666666#64) (machine (fresh Env.empty))) =
      some [0x00#8, 0x3F#8, 0xDE#8, 0x09#8, 0x8D#8, 0xE6#8, 0x66#8, 0x66#8, 0x66#8] := by decide +kernel

theorem test_volts : responseOf (exec (.volts 0xFF800000#32) (machine (ready 5#8 6#8 Env.empty))) =
    some [0x00#8, 0xBF#8, 0xB4#8, 0#8, 0#8, 0#8, 0#8, 0#8, 0#8] := by decide +kernel

theorem test_volts_refused :
    refusalOf (exec (.volts 0#32) (machine (fresh Env.empty))) = some (.wrongState .uninitialized) := by decide

/-! ### Sequencer (95_test_vectors.md P1 to P6) -/

/-- P1 step 1. -/
theorem test_init_trace :
    eventsOf (exec (.init 5#8 0#8) (machine (fresh (env [.low] 1 0#8 0#8 0#8)))) =
      some [.acq, .cs .high .ok, .rst .low .ok, .sleep .tRst, .rst .high .ok, .sleep .tRst, .sleep .tPwrup,
        .drdy (.level .low), .cs .low .ok, .xfer [0x53#8, 0x00#8, 0xA1#8] (.rx [0#8, 0#8, 0#8]),
        .xfer [0x52#8, 0x00#8, 0x00#8] (.rx [0#8, 0#8, 0#8]), .cs .high .ok, .rel] := by decide +kernel

theorem test_init_view :
    viewOf (exec (.init 5#8 0#8) (machine (fresh (env [.low] 1 0#8 0#8 0#8)))) =
      some ⟨some [0x00#8], .configured, some 5#8, some 0#8, .high, .high, 1, false⟩ := by decide +kernel

/-- P1 step 2. -/
theorem test_readse_trace :
    eventsOf (exec (.readse 3) (machine (ready 5#8 0#8 (env [.high, .low] 4 0x7F#8 0xFF#8 0xFF#8)))) =
      some [.acq, .cs .low .ok, .xfer [0x51#8, 0x00#8, 0x38#8] (.rx [0#8, 0#8, 0#8]), .xfer [0xFC#8] (.rx [0#8]),
        .sleep .tSync, .xfer [0x00#8] (.rx [0#8]), .drdy (.level .high), .sleep .tPoll, .drdy (.level .low),
        .xfer [0x01#8] (.rx [0#8]), .sleep .tRdata, .xfer [0x00#8, 0x00#8, 0x00#8] (.rx [0x7F#8, 0xFF#8, 0xFF#8]),
        .cs .high .ok, .rel] := by decide +kernel

theorem test_readse_view :
    viewOf (exec (.readse 3) (machine (ready 5#8 0#8 (env [.high, .low] 4 0x7F#8 0xFF#8 0xFF#8)))) =
      some ⟨some [0x00#8, 0x00#8, 0x7F#8, 0xFF#8, 0xFF#8], .idle, some 5#8, some 0#8, .high, .high, 2, false⟩ := by decide +kernel

/-- P2 step 1, with `MAX_POLLS` 4. -/
theorem test_read_timeout :
    viewOf (exec (.read 0 1) (machine (ready 5#8 0#8 (env [.high, .high, .high, .high] 4 0#8 0#8 0#8)))) =
      some ⟨some [0x03#8], .idle, some 5#8, some 0#8, .high, .high, 4, false⟩ := by decide +kernel

/-- P4 step 1: the SYNC transfer fails. -/
theorem test_read_transport_error :
    eventsOf (exec (.read 3 8) (machine (ready 5#8 0#8
      { env [] 0 0#8 0#8 0#8 with xferAnswers := [.rx 0#8 0#8 0#8, .transportError] }))) =
      some [.acq, .cs .low .ok, .xfer [0x51#8, 0x00#8, 0x38#8] (.rx [0#8, 0#8, 0#8]), .xfer [0xFC#8] .transportError,
        .cs .high .ok, .rel] := by decide +kernel

/-- P3 step 1. -/
theorem test_setcfg_trace :
    eventsOf (exec (.setcfg 0#8 6#8) (machine (ready 5#8 0#8 (env [] 1 0#8 0#8 0#8)))) =
      some [.acq, .cs .low .ok, .xfer [0x53#8, 0x00#8, 0xF0#8] (.rx [0#8, 0#8, 0#8]),
        .xfer [0x52#8, 0x00#8, 0x06#8] (.rx [0#8, 0#8, 0#8]), .cs .high .ok, .rel] := by decide +kernel

/-- P3 step 3: rate index 16. -/
theorem test_setcfg_rejects :
    viewOf (exec (.setcfg 16#8 0#8) (machine (ready 5#8 0#8 Env.empty))) =
      some ⟨some [0x04#8], .configured, some 5#8, some 0#8, .high, .high, 1, false⟩ := by decide +kernel

/-- P5: the data-ready read fails and the cleanup fails; the answer is the first error. -/
theorem test_cleanup_failure :
    viewOf (exec (.readse 0) (machine (ready 5#8 0#8
      { env [] 4 0#8 0#8 0#8 with csAnswers := [.ok, .gpioError], drdyAnswers := [.gpioError] }))) =
      some ⟨some [0x02#8], .idle, some 5#8, some 0#8, .unknown, .high, 0, true⟩ := by decide +kernel

/-- P6 step 1: the ADCON transfer fails. -/
theorem test_init_failure :
    viewOf (exec (.init 7#8 1#8) (machine (ready 5#8 0#8
      { env [.low] 0 0#8 0#8 0#8 with xferAnswers := [.rx 0#8 0#8 0#8, .transportError] }))) =
      some ⟨some [0x01#8], .uninitialized, none, none, .high, .high, 1, false⟩ := by decide +kernel

/-- P6 step 2. -/
theorem test_read_refused :
    refusalOf (exec (.readse 3) (machine (fresh Env.empty))) = some (.wrongState .uninitialized) := by decide

/-! ### Chip frames and steps -/

/-- A device instance whose READ stands at the transfer of a frame. -/
def standing (tx : List Byte) (e : Env) : Device := (ready 5#8 0#8 e).atFrame ChipParams.default 4 tx

/-- A machine with that device instance, which owns the bus. -/
def mid (tx : List Byte) (answer : XferAnswer) : State :=
  { machine (standing tx { env [] 0 0#8 0#8 0#8 with xferAnswers := [answer] }) with busOwner := some 0 }

theorem test_wreg_sent : eventsOf (exec (.wreg 3#4 0xA1#8) (mid [0x53#8, 0x00#8, 0xA1#8] (.rx 1#8 2#8 3#8))) =
    some [.xfer [0x53#8, 0x00#8, 0xA1#8] (.rx [1#8, 2#8, 3#8])] := by decide +kernel
theorem test_muxsel_sent : eventsOf (exec (.muxsel 3#4 8#4) (mid [0x51#8, 0x00#8, 0x38#8] (.rx 1#8 2#8 3#8))) =
    some [.xfer [0x51#8, 0x00#8, 0x38#8] (.rx [1#8, 2#8, 3#8])] := by decide +kernel
theorem test_sync_sent : eventsOf (exec .sync (mid [0xFC#8] (.rx 1#8 2#8 3#8))) =
    some [.xfer [0xFC#8] (.rx [1#8])] := by decide +kernel
/-- R156: `Converting` from the success of WAKEUP on. -/
theorem test_wakeup_sent : (viewOf (exec .wakeup (mid [0x00#8] (.rx 1#8 2#8 3#8)))).map View.fsm = some .converting := by
  decide +kernel
theorem test_rdata_sent : eventsOf (exec .rdata (mid [0x01#8] (.rx 1#8 2#8 3#8))) =
    some [.xfer [0x01#8] (.rx [1#8])] := by decide +kernel
theorem test_dataread_sent : eventsOf (exec .dataread (mid [0x00#8, 0x00#8, 0x00#8] (.rx 1#8 2#8 3#8))) =
    some [.xfer [0x00#8, 0x00#8, 0x00#8] (.rx [1#8, 2#8, 3#8])] := by decide +kernel

/-- A step takes the host's request: P1 step 1 as bytes. -/
theorem test_step_request :
    responseOf (step (scheduled (fresh { env [.low] 1 0#8 0#8 0#8 with requests := [[0x01#8, 0x05#8, 0x00#8]] }) .whole)) =
      some [0x00#8] := by decide +kernel

/-- A placed word runs next. -/
theorem test_placed_word :
    responseOf (step ((machine (fresh Env.empty)).withFetchWord 24 0xA10306)) = some [0x00#8, 0x53#8, 0x00#8, 0xA1#8] := by
  decide +kernel

/-! ### Assembly (30_encoding.md R104) -/

theorem test_assemble_scale :
    assemble params "SCALE 1193046, G1, 3.3".toList = some (.scale 1193046#32 0#8 0x400A666666666666#64) := by
  decide +kernel
/-- The gain names of R104, and spellings that are none of them. -/
theorem test_assemble_gains :
    parseGain ChipParams.default "G16".toList = some 4#8 ∧ parseGain ChipParams.default "G016".toList = none ∧
    parseGain ChipParams.default "G0x10".toList = none ∧ parseGain ChipParams.default "G128".toList = none := by decide +kernel

theorem test_assemble_decode :
    assemble params "DECODE 0xED, 0xCB, 0xAA".toList = some (.decode 0xED#8 0xCB#8 0xAA#8) := by decide +kernel

/-! ### Witnesses: codec and scalar -/

/-- Of every statement about the decided parameters of the chip, or about legal ones. -/
theorem witness_chip :
    (machine (fresh Env.empty)).params.chip = ChipParams.default ∧ ChipParams.default.legal = true ∧
    hostLength ChipParams.default ChipParams.default.wakeupByte = none ∧
    hostLength ChipParams.default ChipParams.default.fillByte = none := by decide

/-- Legal parameters that are not those of R8: 13 inputs, channel operands of 16 bits, gains up to 8. -/
def otherChip : ChipParams :=
  { nAin := 13, chCom := 15, chW := 16, regMax := 0x0F, gains := [1, 2, 4, 8], wakeupByte := 0x02#8, fillByte := 0xFF#8 }

theorem witness_other_chip : otherChip.legal = true := by decide

/-- With them a request of READ has two bytes for each channel, and one of three bytes is too short (R100). -/
theorem test_wide_channels :
    decodeHost otherChip [0x03#8, 0x00#8, 0x0C#8, 0x00#8, 0x0F#8] = .ok (.readse 12) ∧
    decodeHost otherChip [0x03#8, 0x00#8, 0x0C#8] = .error (.shortRequest 0x03#8) ∧
    encode otherChip (.read 12 258) = [0x03#8, 0x00#8, 0x0C#8, 0x01#8, 0x02#8] ∧
    isChannel otherChip 12 = true ∧ isChannel otherChip 13 = false ∧ validGain otherChip 4#8 = false :=
  ⟨rfl, rfl, rfl, rfl, rfl, rfl⟩

/-- The scalars' statements that name a gain index: legal ones at the ends of their ranges. -/
theorem witness_gains :
    validGain ChipParams.default 0#8 = true ∧ validGain ChipParams.default 6#8 = true ∧
    validGain ChipParams.default 5#8 = true ∧ validGain ChipParams.default (5#8 + 1#8) = true ∧
    (6#8 : Byte).toNat ≤ 6 ∧ (5#8 : Byte).toNat ≤ 5 := by decide

/-- AssemblyExamples. -/
theorem witness_assembly : params.chip = ChipParams.default ∧ ∃ polls : Nat → Nat, params.rates = rateEntries polls :=
  ⟨rfl, fun _ => 4, rfl⟩

/-- Of every statement whose premise is only that it is the turn of a device instance. -/
theorem witness_device : (machine (fresh Env.empty)).devices[(machine (fresh Env.empty)).cur]? = some (fresh Env.empty) :=
  rfl

/-- MuxCodeIsExact. -/
theorem witness_mux_code : 8 ≤ 8 ∧ 0 ≤ 8 ∧ muxByte 8 0 = muxByte 8 0 := by decide

/-- ConversionCodeRoundTrip, both ends. -/
theorem witness_code_range :
    (-(2 ^ 23) ≤ (-(2 ^ 23) : Int) ∧ (-(2 ^ 23) : Int) < 2 ^ 23) ∧
    (-(2 ^ 23) ≤ (2 ^ 23 - 1 : Int) ∧ (2 ^ 23 - 1 : Int) < 2 ^ 23) := by decide

theorem f64Value_five : f64Value five = 5 := by
  have h : f64Sign five = false ∧ f64Mant five = 5 * 2 ^ 50 ∧ f64Scale five = -50 := by decide +kernel
  rw [f64Value, h.1, h.2.1, h.2.2]
  norm_num

/-- ScaleRoundsEachOperation, both clauses. -/
theorem witness_scale :
    (validGain params.chip 6#8 = true ∧ f64Finite five = true ∧ 0 < f64Value five) ∧
    ¬(validGain params.chip 7#8 = true ∧ f64Finite five = true ∧ 0 < f64Value five) := by
  refine ⟨⟨by decide, by decide, ?_⟩, fun h => absurd h.1 (by decide)⟩
  rw [f64Value_five]
  norm_num

/-- ScaleIsNearestToTheQuotient, FullScaleCodes, DoublingTheGainHalvesTheVoltage: an ordinary reference. -/
theorem witness_ordinary : ordinaryVref five := by
  refine ⟨by decide, ?_, ?_⟩
  · rw [f64Value_five]
    have : (2 : ℚ) ^ (-990 : Int) ≤ 2 ^ (0 : Int) := zpow_le_zpow_right₀ (by norm_num) (by norm_num)
    have h : (2 : ℚ) ^ (0 : Int) ≤ 5 := by norm_num
    exact this.trans h
  · rw [f64Value_five]
    have : (2 : ℚ) ^ (3 : Int) ≤ 2 ^ (1000 : Int) := zpow_le_zpow_right₀ (by norm_num) (by norm_num)
    exact le_trans (by norm_num) this

/-- The ends of the ordinary references, 2^-990 and 2^1000. -/
theorem witness_ordinary_ends : ordinaryVref 0x0210000000000000#64 ∧ ordinaryVref 0x7E70000000000000#64 := by
  have hl : f64Sign 0x0210000000000000#64 = false ∧ f64Mant 0x0210000000000000#64 = 2 ^ 52 ∧
      f64Scale 0x0210000000000000#64 = -1042 := by decide +kernel
  have hh : f64Sign 0x7E70000000000000#64 = false ∧ f64Mant 0x7E70000000000000#64 = 2 ^ 52 ∧
      f64Scale 0x7E70000000000000#64 = 948 := by decide +kernel
  have vl : f64Value 0x0210000000000000#64 = 2 ^ (-990 : Int) := by
    rw [f64Value, hl.1, hl.2.1, hl.2.2, show (-990 : Int) = 52 + -1042 by norm_num, zpow_add₀ (by norm_num)]
    norm_num
  have vh : f64Value 0x7E70000000000000#64 = 2 ^ (1000 : Int) := by
    rw [f64Value, hh.1, hh.2.1, hh.2.2, show (1000 : Int) = 52 + 948 by norm_num, zpow_add₀ (by norm_num)]
    norm_num
  have le : (2 : ℚ) ^ (-990 : Int) ≤ 2 ^ (1000 : Int) := zpow_le_zpow_right₀ (by norm_num) (by norm_num)
  exact ⟨⟨by decide, vl.ge, vl.le.trans le⟩, ⟨by decide, le.trans vh.ge, vh.le⟩⟩

/-- ScaleIsNearestToTheQuotient, its last premise. -/
theorem witness_exact_product : ∃ y : F64, f64Finite y = true ∧ f64Value y = (((1#32 : Code32).toInt : Int) : ℚ) * f64Value five :=
  ⟨five, by decide, by rw [show ((1#32 : Code32).toInt : Int) = 1 from rfl]; norm_num⟩

/-- ScaleIsMonotone, ScaleResultsAreNumbers: results exist, at the ends of the 24-bit range. -/
theorem witness_scale_results :
    scaleCode ChipParams.default (BitVec.ofInt 32 (-(2 ^ 23))) 0#8 five = some 0xC014000000000000#64 ∧
    scaleCode ChipParams.default (BitVec.ofInt 32 (2 ^ 23)) 0#8 five = some five ∧
    (BitVec.ofInt 32 (-(2 ^ 23))).toInt ≤ (BitVec.ofInt 32 (2 ^ 23)).toInt ∧
    -(2 ^ 23) ≤ (BitVec.ofInt 32 (-(2 ^ 23))).toInt ∧ (BitVec.ofInt 32 (2 ^ 23)).toInt ≤ 2 ^ 23 := by decide +kernel

/-- ScaleResultsAreNumbers: its first clause, by both alternatives (NaN, and zero of either sign). -/
theorem witness_degenerate_reference :
    f64Finite 0x7FF8000000000000#64 = false ∧ f64Value 0#64 ≤ 0 ∧ f64Value 0x8000000000000000#64 ≤ 0 := by
  have h : f64Mant 0#64 = 0 ∧ f64Mant 0x8000000000000000#64 = 0 := by decide
  refine ⟨by decide, ?_, ?_⟩ <;> rw [f64Value]
  · rw [h.1]; simp
  · rw [h.2]; simp

/-- ScaleResultsAreNumbers: VOLTS answers a number. -/
theorem witness_volts_result :
    exec (.volts 0xFF800000#32) (machine (ready 5#8 6#8 Env.empty)) =
      .next ((machine (ready 5#8 6#8 Env.empty)).putDevice
        ((ready 5#8 6#8 Env.empty).respond (0x00#8 :: bytesOf64 0xBFB4000000000000#64))) := rfl

/-- VoltsIsScaleWithTheCachedGain, clause by clause. -/
theorem witness_volts :
    ((ready 5#8 6#8 Env.empty).fsm = .configured ∧ (ready 5#8 6#8 Env.empty).cfgGain = some 6#8 ∧
      validGain params.chip 6#8 = true ∧ validVref (ready 5#8 6#8 Env.empty).vref = true) ∧
    ¬((fresh Env.empty).fsm = .configured ∨ (fresh Env.empty).fsm = .idle) ∧
    ({ ready 5#8 6#8 Env.empty with cfgGain := none }.fsm = .configured ∧
      { ready 5#8 6#8 Env.empty with cfgGain := none }.cfgGain = none) := by decide

/-! ### Witnesses: sequencer -/

/-- InitConfigures, InitAlwaysEnds: data-ready at the last read that the bound allows, and legal operands at their ends. -/
theorem witness_init :
    (fresh (env [.high, .low] 1 0#8 0#8 0#8)).op = none ∧ (fresh (env [.high, .low] 1 0#8 0#8 0#8)).fsm = .uninitialized ∧
    params.rates[(15#8 : Byte).toNat]? = some { name := "2.5", drate := 0x03#8, maxPolls := 4 } ∧
    validGain params.chip 6#8 = true ∧
    (machine (fresh (env [.high, .low] 1 0#8 0#8 0#8))).busOwner = none ∧ 1 < params.initPolls ∧
    (env [.high, .low] 1 0#8 0#8 0#8).csAnswers = .ok :: .ok :: .ok :: [.ok] ∧
    (env [.high, .low] 1 0#8 0#8 0#8).rstAnswers = .ok :: .ok :: [] ∧
    (env [.high, .low] 1 0#8 0#8 0#8).drdyAnswers =
      List.replicate 1 (.level (otherLevel params.initDrdyLevel)) ++ .level params.initDrdyLevel :: [] ∧
    (env [.high, .low] 1 0#8 0#8 0#8).xferAnswers = .rx 0#8 0#8 0#8 :: .rx 0#8 0#8 0#8 :: [] ∧
    (15#8 : Byte).toNat < params.rates.length ∧ 1 ≤ params.initPolls := by decide

/-- SetcfgReconfigures, SetcfgAlwaysEnds. -/
theorem witness_setcfg :
    (ready 5#8 0#8 (env [] 1 0#8 0#8 0#8)).op = none ∧ (ready 5#8 0#8 (env [] 1 0#8 0#8 0#8)).fsm = .configured ∧
    params.rates[(15#8 : Byte).toNat]? = some { name := "2.5", drate := 0x03#8, maxPolls := 4 } ∧
    validGain params.chip 6#8 = true ∧
    (machine (ready 5#8 0#8 (env [] 1 0#8 0#8 0#8))).busOwner = none ∧
    (env [] 1 0#8 0#8 0#8).csAnswers = .ok :: .ok :: [.ok, .ok] ∧
    (env [] 1 0#8 0#8 0#8).xferAnswers = .rx 0#8 0#8 0#8 :: .rx 0#8 0#8 0#8 :: [] ∧
    (15#8 : Byte).toNat < params.rates.length := by decide

/-- ReadReturnsTheCode, ReadAlwaysEnds: data-ready at the last read that the bound allows, and channels at their ends. -/
theorem witness_read :
    (ready 5#8 0#8 (env [.high, .high, .high, .low] 4 1#8 2#8 3#8)).op = none ∧
    (ready 5#8 0#8 (env [.high, .high, .high, .low] 4 1#8 2#8 3#8)).fsm = .configured ∧
    (ready 5#8 0#8 (env [.high, .high, .high, .low] 4 1#8 2#8 3#8)).cfgRate = some 5#8 ∧
    params.rates[(5#8 : Byte).toNat]? = some { name := "1000", drate := 0xA1#8, maxPolls := 4 } ∧
    isChannel params.chip 8 = true ∧ isChannel params.chip 0 = true ∧ params.chip.chCom = 8 ∧
    (machine (ready 5#8 0#8 (env [.high, .high, .high, .low] 4 1#8 2#8 3#8))).busOwner = none ∧ 3 < 4 ∧
    (env [.high, .high, .high, .low] 4 1#8 2#8 3#8).csAnswers = .ok :: .ok :: [.ok, .ok] ∧
    (env [.high, .high, .high, .low] 4 1#8 2#8 3#8).drdyAnswers = List.replicate 3 (.level .high) ++ .level .low :: [] ∧
    (env [.high, .high, .high, .low] 4 1#8 2#8 3#8).xferAnswers =
      .rx 0#8 0#8 0#8 :: .rx 0#8 0#8 0#8 :: .rx 0#8 0#8 0#8 :: .rx 0#8 0#8 0#8 :: .rx 1#8 2#8 3#8 :: [] := by decide

/-- ReadTimesOut: the rest of its premises are those of `witness_read`. -/
theorem witness_read_timeout :
    (env [.high, .high, .high, .high] 4 1#8 2#8 3#8).drdyAnswers = List.replicate 4 (.level .high) ++ [] ∧
    (env [.high, .high, .high, .high] 4 1#8 2#8 3#8).xferAnswers =
      .rx 0#8 0#8 0#8 :: .rx 0#8 0#8 0#8 :: .rx 0#8 0#8 0#8 :: [.rx 0#8 0#8 0#8, .rx 1#8 2#8 3#8] := by decide

theorem exists_of_stateOf {o : Host.Outcome State Fault Refusal} {P : State → Bool}
    (h : (stateOf o).any P = true) : ∃ t, o = .next t ∧ P t = true := by
  cases o with
  | next t => exact ⟨t, rfl, by simpa [stateOf] using h⟩
  | fault r => cases h
  | refused r => cases h

theorem exists_next {o : Host.Outcome State Fault Refusal} (h : (stateOf o).isSome = true) : ∃ t, o = .next t := by
  cases o with
  | next t => exact ⟨t, rfl⟩
  | fault r => cases h
  | refused r => cases h

/-- CachedConfigurationWasWritten: INIT and SETCFG that leave a cache. -/
theorem witness_cached :
    (∃ t, exec (.init 15#8 6#8) (machine (fresh (env [.low] 1 0#8 0#8 0#8))) = .next t ∧
      (t.devices[0]?.any fun m => m.cfgRate.isSome) = true) ∧
    (∃ t, exec (.setcfg 15#8 6#8) (machine (ready 5#8 0#8 (env [] 1 0#8 0#8 0#8))) = .next t ∧
      (t.devices[0]?.any fun m => m.cfgRate.isSome) = true) :=
  ⟨exists_of_stateOf (by decide +kernel), exists_of_stateOf (by decide +kernel)⟩

/-- ConfigErrorTouchesNothing: each condition, just past the end of its range. -/
theorem witness_config_error :
    (ready 5#8 0#8 Env.empty).op = none ∧ (ready 5#8 0#8 Env.empty).fsm = .configured ∧
    params.rates.length ≤ (16#8 : Byte).toNat ∧ validGain params.chip 7#8 = false ∧ (ready 5#8 0#8 Env.empty).cfgRate = some 5#8 ∧
    (5#8 : Byte).toNat < params.rates.length ∧ isChannel params.chip 9 = false ∧
    f64Finite 0x7FF0000000000000#64 = false ∧ params.chip.regMax < (0x0B#8 : Byte).toNat := by decide

/-- ConfigErrorTouchesNothing: a reference of zero. -/
theorem witness_zero_reference : f64Value 0#64 ≤ 0 := by
  have h : f64Mant 0#64 = 0 := by decide
  simp [f64Value, h]

/-- RefusedRequests: both forms of the first clause, and the states of the second. -/
theorem witness_refused :
    ((0x0B#8 : Byte).toNat = 0 ∨ 0x0A < (0x0B#8 : Byte).toNat) ∧
    (hostLength params.chip 0x03#8 = some 3 ∧ [0x03#8, 0x03#8].length < 3) ∧
    (let s := scheduled (fresh { Env.empty with requests := [[0x0B#8]] }) .whole
     s.devices[s.turn.agent]? = some (fresh { Env.empty with requests := [[0x0B#8]] })) ∧
    (fresh Env.empty).fsm = .uninitialized ∧ (fresh Env.empty).cfgRate = none ∧ (fresh Env.empty).cfgGain = none ∧
    { fresh Env.empty with fsm := .reset }.fsm = .reset ∧ { fresh Env.empty with fsm := .converting }.fsm = .converting ∧
    ¬({ fresh Env.empty with fsm := .reset }.fsm = .configured ∨ { fresh Env.empty with fsm := .reset }.fsm = .idle) := by
  decide

/-! ### Witnesses: port calls and frames -/

/-- A READ in progress before a list of port calls. -/
def reading (rest : List PortCall) : InProgress := { operation := .read 3 8, rest := rest, data := none }

/-- The lane of a device instance before a list of port calls, with the environment of a successful READ. -/
def laneAt (rest : List PortCall) (e : Env) : Lane :=
  { dev := { ready 5#8 0#8 e with holdsLock := true, pollCount := 0, op := some (reading rest) }, owner := some 0, events := [] }

/-- AbortCleansUp: both answers. -/
theorem witness_abort :
    (laneAt [.setRST .low] (env [] 0 0#8 0#8 0#8)).dev.op = some (reading [.setRST .low]) ∧ Status.timeout ≠ .ok ∧
    (env [] 0 0#8 0#8 0#8).csAnswers = .ok :: [.ok, .ok, .ok] ∧
    { env [] 0 0#8 0#8 0#8 with csAnswers := [.gpioError] }.csAnswers = .gpioError :: [] := by decide

/-- FailedPortCallsAbort: each kind of call. -/
theorem witness_failed_calls :
    ((reading [.transfer [0x01#8] .nothing]).rest = .transfer [0x01#8] .nothing :: [] ∧
      { Env.empty with xferAnswers := [.transportError] }.xferAnswers = .transportError :: []) ∧
    ((reading [.setCS .low .nothing]).rest = .setCS .low .nothing :: [] ∧
      { Env.empty with csAnswers := [.gpioError] }.csAnswers = .gpioError :: []) ∧
    ((reading [.setRST .low]).rest = .setRST .low :: [] ∧
      { Env.empty with rstAnswers := [.gpioError] }.rstAnswers = .gpioError :: []) ∧
    ((reading [.readDRDY .low 4]).rest = .readDRDY .low 4 :: [] ∧
      { Env.empty with drdyAnswers := [.gpioError] }.drdyAnswers = .gpioError :: []) := by decide

/-- WaitPollsUpToItsBound: the last read that the bound allows, the bound used up, and an error on the last read. -/
theorem witness_wait :
    (laneAt [.readDRDY .low 2] Env.empty).dev.op = some (reading [.readDRDY .low 2]) ∧
    (laneAt [.readDRDY .low 2] Env.empty).dev.pollCount = 0 ∧ 1 ≤ 2 ∧ 1 < 2 ∧
    (env [.high, .low] 0 0#8 0#8 0#8).drdyAnswers = List.replicate 1 (.level (otherLevel .low)) ++ .level .low :: [] ∧
    (env [.high, .high] 0 0#8 0#8 0#8).drdyAnswers = List.replicate 2 (.level (otherLevel .low)) ++ [] ∧
    { Env.empty with drdyAnswers := [.level .high, .gpioError] }.drdyAnswers =
      List.replicate 1 (.level (otherLevel .low)) ++ .gpioError :: [] := by decide

/-- AcquireHoldsWhileTheBusIsOwned, clause by clause: another device instance owns the bus. -/
def contended (m : Device) : State :=
  { machine m with
    devices := [m, { ready 5#8 0#8 Env.empty with holdsLock := true }]
    busOwner := some 1 }

theorem witness_contended :
    (contended (ready 5#8 0#8 Env.empty)).devices[(contended (ready 5#8 0#8 Env.empty)).cur]? = some (ready 5#8 0#8 Env.empty) ∧
    (contended (ready 5#8 0#8 Env.empty)).busOwner = some 1 ∧ (ready 5#8 0#8 Env.empty).op = none ∧
    (fresh Env.empty).op = none ∧ (fresh Env.empty).fsm = .uninitialized ∧ (ready 5#8 0#8 Env.empty).fsm = .configured ∧
    params.rates[(15#8 : Byte).toNat]? = some { name := "2.5", drate := 0x03#8, maxPolls := 4 } ∧
    validGain params.chip 6#8 = true ∧
    (ready 15#8 0#8 Env.empty).cfgRate = some 15#8 ∧ isChannel params.chip 8 = true ∧
    (reading (readPlan ChipParams.default 4 3 8)).rest = .acquire :: (readPlan ChipParams.default 4 3 8).tail := by decide

/-- ChipFramesAreSentWhereDue: both answers; ChipFramesAreSentNowhereElse. -/
theorem witness_frames :
    ((mid [0xFC#8] (.rx 1#8 2#8 3#8)).devices[0]?.map Device.dueFrame) = some (some (encode ChipParams.default .sync)) ∧
    ((standing [0xFC#8] Env.empty).op.map InProgress.rest) = some (frameTail ChipParams.default 4 [0xFC#8]) ∧
    frameTail ChipParams.default 4 [0xFC#8] = .transfer [0xFC#8] .nothing :: (readPlan ChipParams.default 4 0 0).drop 4 ∧
    { Env.empty with xferAnswers := [.rx 1#8 2#8 3#8] }.xferAnswers = .rx 1#8 2#8 3#8 :: [] ∧
    { Env.empty with xferAnswers := [.transportError] }.xferAnswers = .transportError :: [] ∧
    Instr.sync.layer = .chip ∧ (fresh Env.empty).dueFrame ≠ some (encode ChipParams.default .sync) := by decide

/-- DecodeOfEncode at the ends of the ranges; EncodeOfDecode and LayersShareNoFrame have the decode tests above. -/
theorem witness_wellformed :
    (Instr.wreg 0xA#4 0xFF#8).wellFormed ChipParams.default = true ∧ (Instr.wreg 1#4 0x90#8).wellFormed ChipParams.default = true ∧
    (Instr.muxsel 8#4 8#4).wellFormed ChipParams.default = true ∧ (Instr.read 0xFF 0xFF).wellFormed ChipParams.default = true ∧
    (Instr.encmux 0xFF 9).wellFormed ChipParams.default = true := by decide

/-! ### Witnesses: steps -/

/-- StepRunsTheDecodedInstruction, both clauses; StepWithoutADecodedInstruction, each clause. -/
theorem witness_step :
    (scheduled (fresh { Env.empty with requests := [[0x0A#8]] }) .whole).turns = { agent := 0, grain := .whole } :: [] ∧
    (fresh { Env.empty with requests := [[0x0A#8]] }).env.requests = [0x0A#8] :: [] ∧
    (fresh { Env.empty with requests := [[0x0A#8]] }).op = none ∧ (fresh Env.empty).env.requests = [] ∧
    (standing [0xFC#8] Env.empty).dueFrame = some [0xFC#8] ∧ (standing [0xFC#8] Env.empty).op.isSome = true ∧
    (scheduled (standing [0xFC#8] Env.empty) .event).turns = { agent := 0, grain := .event } :: [] ∧
    { ready 5#8 0#8 Env.empty with op := some (reading [.cleanupCS]) }.dueFrame = none ∧
    { ready 5#8 0#8 Env.empty with op := some (reading [.acquire]) }.op = some (reading [.acquire]) ∧
    (contended { ready 5#8 0#8 Env.empty with op := some (reading [.acquire]) }).busOwner = some 1 := by decide

/-- WholeTurnIsItsEventTurns: READSE begins and runs. -/
theorem witness_whole_turn :
    (∃ t, beginOp (.readse 3) (machine (ready 5#8 0#8 (env [.low] 4 0#8 0#8 0#8))) = .next t) ∧
    (∃ t, exec (.readse 3) (machine (ready 5#8 0#8 (env [.low] 4 0#8 0#8 0#8))) = .next t) :=
  ⟨exists_next (by decide +kernel), exists_next (by decide +kernel)⟩

/-- PlacedFrameRunsNext: a word of each layer. -/
theorem witness_placed :
    decodeTableWord 24 0x080203 = some (.readse 2) ∧ (Instr.readse 2).layer = .host ∧
    decodeTableWord 24 0x380051 = some (.muxsel 3#4 8#4) ∧ (Instr.muxsel 3#4 8#4).layer = .chip := by decide

/-- StatusWords at the ends of the fields. -/
theorem witness_cfg : (ready 0xFF#8 6#8 Env.empty).cfgRate = some 0xFF#8 ∧ (ready 0xFF#8 6#8 Env.empty).cfgGain = some 6#8 ∧
    (6#8 : Byte).toNat ≤ 6 := by decide

/-! ### Witnesses: the invariant -/

/-- An invariant of a machine of one device instance is a claim about that one. -/
theorem inv_of_one (s : State) (m : Device) (μ : Mon) (hs : s.devices = [m]) (hp : paramsOk s.params)
    (ho : s.busOwner = if m.holdsLock then some 0 else none) (hb : busRun s.trace = some s.busOwner)
    (hc : m.cfgRate.isSome = m.cfgGain.isSome) (hr : ∀ r, m.cfgRate = some r → (rateAt s.params r).isSome = true)
    (hg : ∀ g, m.cfgGain = some g → validGain s.params.chip g = true) (hv : validVref m.vref = true)
    (hm : Mon.run s.params.chip (traceOf 0 s.trace) = some μ) (hh : μ.held = m.holdsLock) (hl : μ.low = m.csOut.isLow)
    (hop : opOk s.params μ m) : Inv s := by
  have only : ∀ (i : Nat) (m' : Device), s.devices[i]? = some m' → i = 0 ∧ m' = m := by
    intro i m' h
    rw [hs] at h
    cases i with
    | zero => exact ⟨rfl, by simpa using h.symm⟩
    | succ i => simp at h
  refine ⟨hp, ?_, ?_, ?_, hb⟩
  · intro i m' h
    obtain ⟨rfl, rfl⟩ := only i m' h
    rw [ho]
    cases m'.holdsLock <;> simp
  · intro i m' h
    obtain ⟨rfl, rfl⟩ := only i m' h
    exact ⟨hc, hr, hg, hv, μ, hm, hh, hl, hop⟩
  · intro i h
    rw [ho] at h
    rw [hs]
    cases hlock : m.holdsLock <;> simp [hlock] at h
    simp [← h]

theorem params_ok : paramsOk params := by
  refine ⟨by decide, by decide, by decide, ?_⟩
  decide

/-- The trace of an INIT that went well. -/
def initTrace : List Event := initEvents .low 0 0xA1#8 0#8 [0#8, 0#8, 0#8] [0#8, 0#8, 0#8]

/-- A machine that has run INIT and is in the middle of a READ, past its data read, with CS low. -/
def midRead : State :=
  { machine
      { ready 5#8 0#8 (env [] 0 1#8 2#8 3#8) with
        fsm := .converting, csOut := .low, holdsLock := true
        op := some { reading ((readPlan ChipParams.default 4 3 8).drop 10) with data := some 0x010203#24 } } with
    busOwner := some 0
    turns := [{ agent := 0, grain := .event }]
    trace := (initTrace ++ readOpening ChipParams.default 3 8 [0#8, 0#8, 0#8] [0#8] [0#8] ++
      [Event.drdy (.level .low), Event.xfer [0x01#8] (.rx [0#8]), Event.sleep .tRdata,
       Event.xfer [0x00#8, 0x00#8, 0x00#8] (.rx [1#8, 2#8, 3#8])]).map fun e => (0, e) }

/-- Every statement with the invariant as its premise: a state in which an operation is in progress, the bus is owned, CS
is low and the trace holds levels of the reset line, frames of every kind and data-ready reads. -/
theorem witness_inv : Inv midRead := by
  refine inv_of_one midRead _ { held := true, low := true, settled := true, resting := false, phase := .over } rfl
    params_ok (by decide) (by decide +kernel) (by decide) ?_ ?_ (by decide) (by decide +kernel) (by decide) (by decide) ?_
  · intro r h
    cases h
    decide
  · intro g h
    cases h
    decide
  · refine ⟨by decide, fun p n _ => ⟨by decide, by decide, by decide⟩⟩

/-- EveryStepKeepsTheInvariant, AStepTouchesOnlyItsDevice, ResponsesAreStatusFrames: a step from there. -/
theorem witness_inv_step : ∃ t, step midRead = .next t :=
  exists_next (by decide +kernel)

/-- OnlyTheBusOwnerHasChipSelectLow, FramesOnlyAfterPowerUp, TransfersAreBlockFramesInWindows,
OperationsNeverInterleave: the other premises, of that state. -/
theorem witness_inv_trace :
    midRead.devices[0]?.map Device.csOut = some .low ∧
    (traceOf 0 midRead.trace)[15]? = some (.xfer [0x51#8, 0x00#8, 0x38#8] (.rx [0#8, 0#8, 0#8])) ∧
    midRead.trace.head? = some (0, .acq) ∧ midRead.trace[1]? = some (0, .cs .high .ok) := by decide +kernel

/-- ResetLevelsAreHeld (a level of the reset line and the event after it), CommandsWaitTheirDelays (the WAKEUP, and the
data read), ChipSelectIsHeldAcrossAConversion (the data read), RdataOnlyAfterDataReady (the RDATA): the other premises, of
that state. -/
theorem witness_inv_commands :
    (traceOf 0 midRead.trace)[4]? = some (.rst .high .ok) ∧ (traceOf 0 midRead.trace)[5]? = some (.sleep .tRst) ∧
    (traceOf 0 midRead.trace)[18]? = some (.xfer [midRead.params.chip.wakeupByte] (.rx [0#8])) ∧
    (traceOf 0 midRead.trace)[20]? = some (.xfer [0x01#8] (.rx [0#8])) ∧
    (traceOf 0 midRead.trace)[22]? =
      some (.xfer [midRead.params.chip.fillByte, midRead.params.chip.fillByte, midRead.params.chip.fillByte]
        (.rx [1#8, 2#8, 3#8])) := by decide +kernel

/-- ResponsesAreStatusFrames: a step that answers. -/
theorem witness_response :
    ∃ t, step (scheduled (fresh { Env.empty with requests := [[0x0A#8]] }) .whole) = .next t ∧
      (t.devices[0]?.any fun m => decide (m.env.responses = [] ++ [[0x00#8, 0x01#8]])) = true :=
  exists_of_stateOf (by decide +kernel)

end Sys2Proof.Tests
end

section
/-! The turn of a state that names it, and what runs in it: `step`, `runTurn`, `continueOp` and `serveHost`, case by case. -/

namespace Sys2Proof.Machine

section
variable {s : State} {m : Device}

/-! ### The turn taken -/

theorem step_of_turns {t : Turn} {ts : List Turn} (h : s.turns = t :: ts) :
    step s = runTurn t.grain { s with cur := t.agent, turns := ts, ticks := s.ticks + 1 } := by
  simp [step, State.takeTurn, State.turn, h]

theorem runTurn_op {o : InProgress} (h : s.devices[s.cur]? = some m) (ho : m.op = some o) (grain : Grain) :
    runTurn grain s = continueOp m grain s := by
  simp [runTurn, h, ho]

theorem runTurn_no_op (h : s.devices[s.cur]? = some m) (ho : m.op = none) (grain : Grain) :
    runTurn grain s = serveHost m grain s := by
  simp [runTurn, h, ho]

/-! ### With an operation in progress -/

@[simp] theorem continueOp_whole (m : Device) (s : State) : continueOp m .whole s = .next s.finish := rfl

theorem continueOp_event (hd : m.dueFrame = none) : continueOp m .event s = .next s.portStep := by
  simp [continueOp, hd]

theorem continueOp_frame {tx : List Byte} {i : Instr} (hd : m.dueFrame = some tx)
    (hi : decodeChip s.params.chip tx = .ok i) : continueOp m .event s = exec i s := by
  simp [continueOp, hd, hi]

/-! ### With none -/

theorem serveHost_nil (hr : m.env.requests = []) (grain : Grain) : serveHost m grain s = .next s := by
  simp [serveHost, hr]

theorem serveHost_whole {bytes : List Byte} {more : List (List Byte)} {i : Instr}
    (hr : m.env.requests = bytes :: more) (hi : decodeHost s.params.chip bytes = .ok i) :
    serveHost m .whole s = exec i (s.popRequest m) := by
  simp [serveHost, hr, hi]

theorem serveHost_event {bytes : List Byte} {more : List (List Byte)} {i : Instr}
    (hr : m.env.requests = bytes :: more) (hi : decodeHost s.params.chip bytes = .ok i) :
    serveHost m .event s = beginOp i (s.popRequest m) := by
  simp [serveHost, hr, hi]

theorem popRequest_cons {bytes : List Byte} {more : List (List Byte)} (hr : m.env.requests = bytes :: more) :
    s.popRequest m =
      { s with devices := s.devices.set s.cur { m with env := { m.env with requests := more } } } := by
  simp [State.popRequest, hr]

/-! ### The call at which an operation stands -/

theorem dueFrame_acquire {o : InProgress} {rest : List PortCall} (ho : m.op = some o) (hr : o.rest = .acquire :: rest) :
    m.dueFrame = none := by
  simp [Device.dueFrame, ho, hr]

theorem dueFrame_transfer {o : InProgress} {tx : List Byte} {eff : Effect} {rest : List PortCall}
    (ho : m.op = some o) (hr : o.rest = .transfer tx eff :: rest) : m.dueFrame = some tx := by
  simp [Device.dueFrame, ho, hr]

/-- A held `Acquire` makes no event (R167). -/
theorem Lane.next_acquire_held {me j : Nat} {l : Lane} {o : InProgress} {rest : List PortCall}
    (ho : l.dev.op = some o) (hr : o.rest = .acquire :: rest) (hl : l.owner = some j) : l.next me = l := by
  simp [Lane.next, ho, hr, Lane.acquire_held hl]

theorem Lane.next_transfer {me : Nat} {l : Lane} {o : InProgress} {tx : List Byte} {eff : Effect} {rest : List PortCall}
    (ho : l.dev.op = some o) (hr : o.rest = .transfer tx eff :: rest) : l.next me = l.transfer me tx eff rest := by
  simp [Lane.next, ho, hr]

/-- Where the next port call does nothing, nor does a turn of either grain that makes port calls. -/
theorem portStep_finish_of_fixed (h : s.devices[s.cur]? = some m) (hn : (s.lane m).next s.cur = s.lane m) :
    s.portStep = s ∧ s.finish = s := by
  rw [portStep_eq h, finish_eq h, hn, Lane.run_fixed hn, withLane_lane h]
  exact ⟨rfl, rfl⟩

end

/-! ### The obligations about the step -/

/-- Settles O36: the request or the due frame decides which branch of the turn is taken, and that branch is `exec`. -/
theorem stepRunsTheDecodedInstruction : Obligations.StepRunsTheDecodedInstruction := by
  intro s t ts m i hts hm
  let s' : State := { s with cur := t.agent, turns := ts, ticks := s.ticks + 1 }
  have turn : step s = runTurn t.grain s' := step_of_turns hts
  rw [turn]
  refine ⟨fun bytes more hg ho hr hi => ?_, fun tx hg hd hi => ?_⟩
  · rw [runTurn_no_op hm ho, hg, serveHost_whole (s := s') hr hi, popRequest_cons hr]
  · obtain ⟨o, eff, rest, ho, -⟩ := dueFrame_eq_some hd
    rw [runTurn_op hm ho, hg, continueOp_frame (s := s') hd hi]

/-- Settles O37, clause by clause; at an `Acquire` that holds both grains leave the state as it is. -/
theorem stepWithoutADecodedInstruction : Obligations.StepWithoutADecodedInstruction := by
  intro s t ts m hts hm s'
  have turn : step s = runTurn t.grain s' := step_of_turns hts
  rw [turn]
  refine ⟨fun ho hr => ?_, fun o ho hg hd => ?_, fun o ho hg => ?_, fun o rest j ho hr hj => ?_,
    fun bytes more i hg ho hr hi => ?_⟩
  · rw [runTurn_no_op hm ho, serveHost_nil hr]
  · rw [runTurn_op hm ho, hg, continueOp_event hd]
  · rw [runTurn_op hm ho, hg, continueOp_whole]
  · have held : (s'.lane m).next s'.cur = s'.lane m := Lane.next_acquire_held ho hr hj
    obtain ⟨hport, hfinish⟩ := portStep_finish_of_fixed (s := s') hm held
    rw [runTurn_op hm ho]
    cases t.grain with
    | whole => rw [continueOp_whole, hfinish]
    | event => rw [continueOp_event (dueFrame_acquire ho hr), hport]
  · rw [runTurn_no_op hm ho, hg, serveHost_event (s := s') hr hi, popRequest_cons hr]

end Sys2Proof.Machine
end

section
/-! Chip frames: where an operation stands at a transfer, the frame's instruction is that transfer. -/

namespace Sys2Proof.Machine

theorem muxByte_toNat (p n : Nibble) : muxByte p.toNat n.toNat = p ++ n := by
  revert p n
  decide

/-- The two nibbles of the MUXSEL frame's last byte stand side by side (R85). -/
theorem muxselFrame_eq (p n : Nibble) : muxselFrame p n = [0x51#8, 0x00#8, p ++ n] := by
  rw [muxselFrame, muxByte_toNat]
  rfl

section
variable {s : State} {m : Device} {o : InProgress} {tx : List Byte} {eff : Effect} {rest : List PortCall}
  (h : s.devices[s.cur]? = some m) (ho : m.op = some o) (hr : o.rest = .transfer tx eff :: rest)
include h ho hr

theorem sendFrame_transfer :
    sendFrame tx s = .next (s.withLane ((s.lane m).transfer s.cur tx eff rest)) := by
  rw [sendFrame_due h (dueFrame_transfer ho hr), portStep_eq h, Lane.next_transfer (l := s.lane m) ho hr]

/-- A frame that the environment answers with bytes (R15, R81). -/
theorem sendFrame_rx {b0 b1 b2 : Byte} {xs : List XferAnswer} (hx : m.env.xferAnswers = .rx b0 b1 b2 :: xs) :
    sendFrame tx s = .next
      { s with
        devices := s.devices.set s.cur
          (({ m with
              op := some { o with rest := rest }
              env := { m.env with xferAnswers := xs, drawn := m.env.drawn + 1 } }).applyEffect eff
            ([b0, b1, b2].take tx.length))
        trace := s.trace ++ [(s.cur, .xfer tx (.rx ([b0, b1, b2].take tx.length)))] } := by
  have answer : m.env.xferAnswer s.cur = .rx b0 b1 b2 := by simp [Env.xferAnswer, hx]
  rw [sendFrame_transfer h ho hr, Lane.transfer_rx (l := s.lane m) answer]
  simp [State.withLane, Lane.record, Device.goto, Env.afterXfer, ho, hx]

/-- A frame that the environment answers with `TransportError` (R211). -/
theorem sendFrame_transportError {xs : List XferAnswer} (hx : m.env.xferAnswers = .transportError :: xs) :
    sendFrame tx s = .next
      { s with
        devices := s.devices.set s.cur
          { m with
            op := some { o with rest := [.cleanupCS, .release .transportError] }
            env := { m.env with xferAnswers := xs, drawn := m.env.drawn + 1 } }
        trace := s.trace ++ [(s.cur, .xfer tx .transportError)] } := by
  have answer : m.env.xferAnswer s.cur = .transportError := by simp [Env.xferAnswer, hx]
  rw [sendFrame_transfer h ho hr, Lane.transfer_error (l := s.lane m) answer]
  simp [State.withLane, Lane.record, Device.abort, Device.goto, Env.afterXfer, ho, hx]

end

/-- Settles O30: each of the six instructions sends its bytes, and a due frame is its transfer. -/
theorem chipFramesAreSentWhereDue : Obligations.ChipFramesAreSentWhereDue := by
  intro s m o tx eff rest r p n v h ho hr i hi htx
  have sends : exec i.1 s = sendFrame i.2 s := by
    simp only [List.mem_cons, List.not_mem_nil, or_false] at hi
    rcases hi with rfl | rfl | rfl | rfl | rfl | rfl
    case inr.inl => exact congrArg (sendFrame · s) (muxselFrame_eq p n)
    all_goals rfl
  rw [sends, ← htx]
  exact ⟨fun b0 b1 b2 xs hx => sendFrame_rx h ho hr hx, fun xs hx => sendFrame_transportError h ho hr hx⟩

end Sys2Proof.Machine
end

section
/-! The parameters after construction. -/

namespace Sys2Proof.Machine

theorem isChannel_default (x : Nat) : isChannel ChipParams.default x = true ↔ x ≤ 8 := by
  rw [isChannel, decide_eq_true_iff]
  change x < 8 ∨ x = 8 ↔ x ≤ 8
  omega

theorem validReg_default (r : Byte) : validReg ChipParams.default r = true ↔ r.toNat ≤ 0x0A :=
  decide_eq_true_iff

/-- The gains of R8 are the powers of 2 up to the sixth. -/
theorem validGain_default (g : Byte) : validGain ChipParams.default g = true ↔ g.toNat ≤ 6 := by
  have gains : ChipParams.default.gains = (List.range 7).map (2 ^ ·) := rfl
  rw [validGain, decide_eq_true_iff, gains]
  simp only [List.mem_map, List.mem_range, Order.lt_two_iff, zero_le, ne_eq, OfNat.ofNat_ne_one, not_false_eq_true,
    pow_right_inj₀, exists_eq_right]
  omega

theorem hostLength_default (op : Byte) : hostLength ChipParams.default op =
    [none, some 3, some 3, some 3, some 5, some 14, some 3, some 3, some 4, some 1, some 1].getD op.toNat none := by
  revert op
  decide

/-- Pairing the rates with their bounds leaves the DRATE codes of R93 as they are. -/
theorem drate_rateEntries (polls : Nat → Nat) : (rateEntries polls).map RateEntry.drate =
    [0xF0#8, 0xE0#8, 0xD0#8, 0xC0#8, 0xB0#8, 0xA1#8, 0x92#8, 0x82#8, 0x72#8, 0x63#8, 0x53#8, 0x43#8, 0x33#8, 0x23#8,
     0x13#8, 0x03#8] := by
  simp only [rateEntries, rateCodes, List.mapIdx_cons, List.mapIdx_nil, List.map_cons, List.map_nil]

theorem maxPolls_rateEntries {polls : Nat → Nat} (h : ∀ k, 1 ≤ polls k) : ∀ e ∈ rateEntries polls, 1 ≤ e.maxPolls := by
  intro e he
  obtain ⟨k, hk, rfl⟩ := List.mem_mapIdx.1 he
  exact h k

/-- Settles O52: the parameters of the reset state are the default ones. -/
theorem decidedParameters : Obligations.DecidedParameters :=
  ⟨rfl, by decide, isChannel_default, validReg_default, validGain_default, hostLength_default,
    drate_rateEntries Config.maxPolls, rfl, Nat.le_add_left 1 _, maxPolls_rateEntries fun _ => Nat.le_add_left 1 _⟩

end Sys2Proof.Machine
end

section
/-! Binary64 patterns as numbers: the fields of a pattern put together by `roundPack`, the numbers that finite patterns
stand for, and that `roundPack` gives the one nearest to its exact argument (R14). -/

namespace Sys2Proof.Machine

/-! ### The bound of a finite pattern -/

theorem f64Exp_lt (x : F64) : f64Exp x < 2 ^ 11 := (x.extractLsb' 52 11).isLt

theorem f64Frac_lt (x : F64) : f64Frac x < 2 ^ 52 := (x.extractLsb' 0 52).isLt

theorem f64Finite_iff (x : F64) : f64Finite x = true ↔ f64Exp x < 0x7FF := by
  have bound := f64Exp_lt x
  rw [f64Finite, decide_eq_true_iff]
  omega

theorem f64Mant_lt (x : F64) : f64Mant x < 2 ^ 53 := by
  have bound := f64Frac_lt x
  unfold f64Mant
  split <;> omega

theorem f64Scale_ge (x : F64) : -1074 ≤ f64Scale x := by
  unfold f64Scale
  split <;> omega

theorem f64Scale_le {x : F64} (h : f64Finite x = true) : f64Scale x ≤ 971 := by
  rw [f64Finite_iff] at h
  unfold f64Scale
  split <;> omega

theorem f64Mant_eq_zero_iff (x : F64) : f64Mant x = 0 ↔ f64Exp x = 0 ∧ f64Frac x = 0 := by
  unfold f64Mant
  split <;> omega

/-- A rational number that a finite pattern can stand for: 53 significant bits, and the exponents of the format. -/
def IsF64 (w : ℚ) : Prop := ∃ k n : ℤ, |k| < 2 ^ 53 ∧ -1074 ≤ n ∧ n ≤ 971 ∧ w = k * 2 ^ n

theorem IsF64.neg {w : ℚ} (h : IsF64 w) : IsF64 (-w) := by
  obtain ⟨k, n, hk, hn, hn', rfl⟩ := h
  exact ⟨-k, n, by rwa [abs_neg], hn, hn', by push_cast; ring⟩

theorem isF64_of_nat {m : Nat} {e : Int} (hm : m < 2 ^ 53) (he : -1074 ≤ e) (he' : e ≤ 971) :
    IsF64 ((m : ℚ) * 2 ^ e) :=
  ⟨m, e, by rw [Nat.abs_cast]; exact_mod_cast hm, he, he', by push_cast; rfl⟩

/-- The sign of a pattern as a factor. -/
def signFactor (neg : Bool) : ℚ := if neg then -1 else 1

@[simp] theorem signFactor_true : signFactor true = -1 := rfl
@[simp] theorem signFactor_false : signFactor false = 1 := rfl

theorem signFactor_xor (a b : Bool) : signFactor (a ^^ b) = signFactor a * signFactor b := by
  cases a <;> cases b <;> norm_num

theorem f64Value_eq (x : F64) : f64Value x = signFactor (f64Sign x) * ((f64Mant x : ℚ) * 2 ^ f64Scale x) := by
  rw [f64Value, mul_assoc]
  rfl

theorem isF64_f64Value {x : F64} (h : f64Finite x = true) : IsF64 (f64Value x) := by
  have magnitude := isF64_of_nat (f64Mant_lt x) (f64Scale_ge x) (f64Scale_le h)
  rw [f64Value_eq]
  cases f64Sign x with
  | false => simpa using magnitude
  | true => simpa using magnitude.neg

/-- The largest number of the format. -/
theorem IsF64.le_largest {w : ℚ} (h : IsF64 w) : w ≤ (2 ^ 53 - 1) * 2 ^ (971 : ℤ) := by
  obtain ⟨k, n, hk, -, hn, rfl⟩ := h
  have hk' : (k : ℚ) ≤ 2 ^ 53 - 1 := by
    have := (abs_lt.1 hk).2
    have : k ≤ 2 ^ 53 - 1 := by omega
    exact_mod_cast this
  calc (k : ℚ) * 2 ^ n ≤ (2 ^ 53 - 1) * 2 ^ n := by gcongr
    _ ≤ (2 ^ 53 - 1) * 2 ^ (971 : ℤ) := by gcongr; norm_num

/-! ### A pattern from its fields -/

/-- The pattern with a sign and a magnitude: the exponent field over the fraction field. -/
def packBits (neg : Bool) (M : Nat) : F64 := BitVec.ofNat 64 (M + if neg then 2 ^ 63 else 0)

section
variable {neg : Bool} {M : Nat} (h : M < 2 ^ 63)
include h

theorem toNat_packBits : (packBits neg M).toNat = M + if neg then 2 ^ 63 else 0 := by
  rw [packBits, BitVec.toNat_ofNat, Nat.mod_eq_of_lt]
  split <;> omega

theorem f64Exp_packBits : f64Exp (packBits neg M) = M / 2 ^ 52 := by
  rw [f64Exp, BitVec.extractLsb'_toNat, toNat_packBits h, Nat.shiftRight_eq_div_pow]
  split <;> omega

theorem f64Frac_packBits : f64Frac (packBits neg M) = M % 2 ^ 52 := by
  rw [f64Frac, BitVec.extractLsb'_toNat, toNat_packBits h, Nat.shiftRight_eq_div_pow]
  split <;> omega

theorem f64Sign_packBits : f64Sign (packBits neg M) = neg := by
  rw [f64Sign, BitVec.getLsbD, toNat_packBits h, Nat.testBit_eq_decide_div_mod_eq]
  cases neg with
  | false =>
    rw [if_neg Bool.false_ne_true]
    exact decide_eq_false (by omega)
  | true =>
    rw [if_pos rfl]
    exact decide_eq_true (by omega)

end

/-- Significands below `2 ^ 53`, subnormal only at the lowest place. -/
theorem f64Mant_f64Scale_packBits (neg : Bool) {P q : Nat} (hq : q < 2 ^ 53) (hP : P = 0 ∨ 2 ^ 52 ≤ q)
    (h : P * 2 ^ 52 + q < 2 ^ 63) :
    f64Mant (packBits neg (P * 2 ^ 52 + q)) = q ∧ f64Scale (packBits neg (P * 2 ^ 52 + q)) = P - 1074 := by
  rw [f64Mant, f64Scale, f64Exp_packBits h, f64Frac_packBits h]
  by_cases hn : q < 2 ^ 52
  · have hP0 : P = 0 := by omega
    subst hP0
    rw [Nat.zero_mul, Nat.zero_add, Nat.div_eq_of_lt hn, Nat.mod_eq_of_lt hn]
    exact ⟨rfl, rfl⟩
  · have hexp : (P * 2 ^ 52 + q) / 2 ^ 52 = P + 1 := by omega
    have hfrac : (P * 2 ^ 52 + q) % 2 ^ 52 = q - 2 ^ 52 := by omega
    rw [hexp, hfrac, if_neg (by omega), if_neg (by omega)]
    omega

/-- A carry out of the significand moves into the exponent by itself: `2 ^ 53` at a place is `2 ^ 52` at the next. -/
theorem packBits_magnitude (neg : Bool) {P q : Nat} (hq : q ≤ 2 ^ 53) (hP : P = 0 ∨ 2 ^ 52 ≤ q)
    (h : P * 2 ^ 52 + q < 2 ^ 63) :
    (f64Mant (packBits neg (P * 2 ^ 52 + q)) : ℚ) * 2 ^ f64Scale (packBits neg (P * 2 ^ 52 + q)) =
      q * 2 ^ ((P : ℤ) - 1074) ∧
    (q % 2 = 0 → f64Mant (packBits neg (P * 2 ^ 52 + q)) % 2 = 0) := by
  rcases Nat.lt_or_eq_of_le hq with hlt | rfl
  · obtain ⟨hm, hs⟩ := f64Mant_f64Scale_packBits neg hlt hP h
    rw [hm, hs]
    exact ⟨rfl, id⟩
  · have carry : P * 2 ^ 52 + 2 ^ 53 = (P + 1) * 2 ^ 52 + 2 ^ 52 := by ring
    rw [carry] at h ⊢
    obtain ⟨hm, hs⟩ := f64Mant_f64Scale_packBits neg (P := P + 1) (q := 2 ^ 52) (by norm_num) (.inr le_rfl) h
    rw [hm, hs, show ((P + 1 : Nat) : ℤ) - 1074 = 1 + ((P : ℤ) - 1074) by push_cast; ring,
      zpow_add₀ two_ne_zero]
    refine ⟨?_, fun _ => by norm_num⟩
    push_cast
    ring

/-! ### The significand to the nearest integer -/

/-- `q` is the integer nearest to `t`, the even one of two. -/
def IsNearestEven (t : ℚ) (q : Nat) : Prop := |t - q| ≤ 1 / 2 ∧ (|t - q| = 1 / 2 → q % 2 = 0)

theorem IsNearestEven.nearest {t : ℚ} {q : Nat} (h : IsNearestEven t q) (k : ℤ) :
    |t - q| ≤ |t - k| ∧ (|t - q| = |t - k| → k ≠ q → q % 2 = 0) := by
  obtain ⟨near, even⟩ := h
  by_cases hk : k = q
  · subst hk
    exact ⟨le_rfl, fun _ hne => absurd rfl hne⟩
  · have apart : (1 : ℚ) ≤ |(q : ℚ) - k| := by
      have : (1 : ℤ) ≤ |(q : ℤ) - k| := Int.one_le_abs (sub_ne_zero.2 fun e => hk e.symm)
      exact_mod_cast this
    have far : |(q : ℚ) - k| ≤ |t - q| + |t - k| := by
      rw [abs_sub_comm t q]
      exact abs_sub_le _ _ _
    exact ⟨by linarith, fun tie _ => even (by linarith)⟩

/-- An integer is its own nearest. -/
theorem isNearestEven_self (q : Nat) : IsNearestEven q q := by
  simp [IsNearestEven]

/-- `shiftRne` in whole numbers: twice `m` is within `2 ^ d` of twice the result. -/
theorem shiftRne_bounds (m d : Nat) :
    2 * m ≤ 2 * (shiftRne m d * 2 ^ d) + 2 ^ d ∧ 2 * (shiftRne m d * 2 ^ d) ≤ 2 * m + 2 ^ d ∧
    (2 * m = 2 * (shiftRne m d * 2 ^ d) + 2 ^ d ∨ 2 * (shiftRne m d * 2 ^ d) = 2 * m + 2 ^ d → shiftRne m d % 2 = 0) := by
  have pos : 0 < 2 ^ d := by positivity
  have parts := Nat.div_add_mod' m (2 ^ d)
  have small := Nat.mod_lt m pos
  unfold shiftRne
  generalize m % 2 ^ d = r at *
  generalize m / 2 ^ d = q at *
  generalize 2 ^ d = D at *
  dsimp only
  split_ifs with below tie
  · refine ⟨by omega, by omega, by omega⟩
  · rcases Nat.mod_two_eq_zero_or_one q with hq | hq
    · rw [hq, Nat.add_zero]
      exact ⟨by omega, by omega, fun _ => hq⟩
    · rw [hq, Nat.add_one_mul q D]
      exact ⟨by omega, by omega, fun _ => by omega⟩
  · rw [Nat.add_one_mul q D]
    exact ⟨by omega, by omega, by omega⟩

theorem shiftRne_nearest (m d : Nat) : IsNearestEven ((m : ℚ) / 2 ^ d) (shiftRne m d) := by
  obtain ⟨up, down, even⟩ := shiftRne_bounds m d
  have pos : (0 : ℚ) < 2 ^ d := by positivity
  have up' : 2 * (m : ℚ) ≤ 2 * (shiftRne m d * 2 ^ d) + 2 ^ d := by exact_mod_cast up
  have down' : 2 * ((shiftRne m d : ℚ) * 2 ^ d) ≤ 2 * m + 2 ^ d := by exact_mod_cast down
  have scaled : ((m : ℚ) / 2 ^ d - shiftRne m d) * 2 ^ d = m - shiftRne m d * 2 ^ d := by
    field_simp
  constructor
  · rw [abs_le]
    constructor <;> nlinarith
  · intro tie
    refine even ?_
    rcases eq_or_eq_neg_of_abs_eq tie with e | e <;> rw [e] at scaled
    · left
      have : 2 * (m : ℚ) = 2 * (shiftRne m d * 2 ^ d) + 2 ^ d := by linarith
      exact_mod_cast this
    · right
      have : 2 * ((shiftRne m d : ℚ) * 2 ^ d) = 2 * m + 2 ^ d := by linarith
      exact_mod_cast this

/-- The argument of a rounding, in units of the last place of its result. -/
def inPlaces (m : Nat) (e : Int) : ℚ := m * 2 ^ (e - roundPlace m e)

theorem inPlaces_mul (m : Nat) (e : Int) : inPlaces m e * 2 ^ roundPlace m e = m * 2 ^ e := by
  rw [inPlaces, mul_assoc, ← zpow_add₀ two_ne_zero]
  congr 2
  omega

theorem roundSig_nearest (m : Nat) (e : Int) : IsNearestEven (inPlaces m e) (roundSig m e) := by
  unfold roundSig inPlaces
  dsimp only
  split
  · rename_i h
    rw [show e - roundPlace m e = -((roundPlace m e - e).toNat : ℤ) by omega, zpow_neg, zpow_natCast, ← div_eq_mul_inv]
    exact shiftRne_nearest m _
  · rename_i h
    rw [show e - roundPlace m e = ((-(roundPlace m e - e)).toNat : ℤ) by omega, zpow_natCast]
    exact_mod_cast isNearestEven_self (m * 2 ^ (-(roundPlace m e - e)).toNat)

/-! ### The place keeps 53 significant bits -/

theorem roundPlace_ge (m : Nat) (e : Int) : -1074 ≤ roundPlace m e := le_max_right _ _

theorem inPlaces_lt (m : Nat) (e : Int) : inPlaces m e < 2 ^ 53 := by
  have place : e - roundPlace m e ≤ 52 - Nat.log2 m := by
    have := le_max_left (e + (Nat.log2 m : ℤ) - 52) (-1074)
    unfold roundPlace
    omega
  have size : (m : ℚ) < 2 ^ ((Nat.log2 m : ℤ) + 1) := by exact_mod_cast Nat.lt_log2_self
  calc inPlaces m e ≤ m * 2 ^ (52 - (Nat.log2 m : ℤ)) := by
        unfold inPlaces
        gcongr
        norm_num
    _ < 2 ^ ((Nat.log2 m : ℤ) + 1) * 2 ^ (52 - (Nat.log2 m : ℤ)) := by gcongr
    _ = 2 ^ 53 := by
        rw [← zpow_add₀ two_ne_zero, show (Nat.log2 m : ℤ) + 1 + (52 - Nat.log2 m) = 53 by ring]
        rfl

/-- Above the lowest place the significand is normal. -/
theorem le_inPlaces {m : Nat} {e : Int} (hm : m ≠ 0) (hp : -1074 < roundPlace m e) : 2 ^ 52 ≤ inPlaces m e := by
  have place : e - roundPlace m e = 52 - Nat.log2 m := by
    unfold roundPlace at hp ⊢
    omega
  have size : (2 : ℚ) ^ (Nat.log2 m : ℤ) ≤ m := by exact_mod_cast Nat.log2_self_le hm
  calc (2 : ℚ) ^ 52 = 2 ^ (Nat.log2 m : ℤ) * 2 ^ (52 - (Nat.log2 m : ℤ)) := by
        rw [← zpow_add₀ two_ne_zero, show (Nat.log2 m : ℤ) + (52 - Nat.log2 m) = 52 by ring]
        rfl
    _ ≤ inPlaces m e := by
        unfold inPlaces
        rw [place]
        gcongr

theorem roundSig_le (m : Nat) (e : Int) : roundSig m e ≤ 2 ^ 53 := by
  have near := (abs_le.1 (roundSig_nearest m e).1).1
  have below := inPlaces_lt m e
  have : (roundSig m e : ℚ) < 2 ^ 53 + 1 := by linarith
  have : roundSig m e < 2 ^ 53 + 1 := by exact_mod_cast this
  omega

theorem le_roundSig {m : Nat} {e : Int} (hm : m ≠ 0) (hp : -1074 < roundPlace m e) : 2 ^ 52 ≤ roundSig m e := by
  have near := (abs_le.1 (roundSig_nearest m e).1).2
  have above := le_inPlaces hm hp
  have : (2 : ℚ) ^ 52 < roundSig m e + 1 := by linarith
  have : 2 ^ 52 < roundSig m e + 1 := by exact_mod_cast this
  omega

/-! ### The result of a rounding -/

/-- The magnitude `roundPack` would pack with no bound on the exponent. -/
def unboundedMagnitude (m : Nat) (e : Int) : Nat := (roundPlace m e + 1074).toNat * 2 ^ 52 + roundSig m e

/-- The magnitude it packs. -/
def roundedMagnitude (m : Nat) (e : Int) : Nat := if m = 0 then 0 else min (unboundedMagnitude m e) (0x7FF * 2 ^ 52 - 1)

theorem roundPack_eq (neg : Bool) (m : Nat) (e : Int) : roundPack neg m e = packBits neg (roundedMagnitude m e) := rfl

theorem roundedMagnitude_lt (m : Nat) (e : Int) : roundedMagnitude m e < 0x7FF * 2 ^ 52 := by
  unfold roundedMagnitude
  split <;> omega

theorem roundedMagnitude_lt_two_pow (m : Nat) (e : Int) : roundedMagnitude m e < 2 ^ 63 :=
  (roundedMagnitude_lt m e).trans (by norm_num)

@[simp] theorem f64Sign_roundPack (neg : Bool) (m : Nat) (e : Int) : f64Sign (roundPack neg m e) = neg :=
  f64Sign_packBits (roundedMagnitude_lt_two_pow m e)

/-- No result of a rounding is infinite or NaN (R195; log entry 8). -/
@[simp] theorem f64Finite_roundPack (neg : Bool) (m : Nat) (e : Int) : f64Finite (roundPack neg m e) = true := by
  rw [f64Finite_iff, roundPack_eq, f64Exp_packBits (roundedMagnitude_lt_two_pow m e)]
  have bound := roundedMagnitude_lt m e
  omega

theorem f64Mant_roundPack (neg : Bool) (m : Nat) (e : Int) :
    f64Mant (roundPack neg m e) = f64Mant (roundPack false m e) := by
  have h := roundedMagnitude_lt_two_pow m e
  simp only [roundPack_eq, f64Mant, f64Exp_packBits h, f64Frac_packBits h]

theorem f64Scale_roundPack (neg : Bool) (m : Nat) (e : Int) :
    f64Scale (roundPack neg m e) = f64Scale (roundPack false m e) := by
  have h := roundedMagnitude_lt_two_pow m e
  simp only [roundPack_eq, f64Scale, f64Exp_packBits h]

theorem f64Value_roundPack (neg : Bool) (m : Nat) (e : Int) :
    f64Value (roundPack neg m e) = signFactor neg * f64Value (roundPack false m e) := by
  simp only [f64Value_eq, f64Sign_roundPack, f64Mant_roundPack neg, f64Scale_roundPack neg, signFactor_false, one_mul]

theorem roundPack_zero (neg : Bool) (e : Int) : roundPack neg 0 e = packBits neg 0 := rfl

theorem f64Value_roundPack_zero (neg : Bool) (e : Int) : f64Value (roundPack neg 0 e) = 0 := by
  have zero : f64Mant (roundPack neg 0 e) = 0 := by
    rw [f64Mant_eq_zero_iff, roundPack_zero, f64Exp_packBits (by norm_num), f64Frac_packBits (by norm_num)]
    exact ⟨rfl, rfl⟩
  rw [f64Value_eq, zero]
  simp

/-- Within the format the result is the rounded significand at its place. -/
theorem f64Value_roundPack_within {m : Nat} {e : Int} (hm : m ≠ 0)
    (h : unboundedMagnitude m e < 0x7FF * 2 ^ 52) :
    f64Value (roundPack false m e) = roundSig m e * 2 ^ roundPlace m e ∧
    (roundSig m e % 2 = 0 → f64Mant (roundPack false m e) % 2 = 0) := by
  have packed : roundedMagnitude m e = unboundedMagnitude m e := by
    rw [roundedMagnitude, if_neg hm]
    omega
  have lowest := roundPlace_ge m e
  have normal : (roundPlace m e + 1074).toNat = 0 ∨ 2 ^ 52 ≤ roundSig m e := by
    by_cases hp : -1074 < roundPlace m e
    · exact .inr (le_roundSig hm hp)
    · left
      omega
  obtain ⟨magnitude, even⟩ := packBits_magnitude false (roundSig_le m e) normal (lt_trans h (by norm_num))
  have place : ((roundPlace m e + 1074).toNat : ℤ) - 1074 = roundPlace m e := by omega
  rw [place] at magnitude
  rw [f64Value_eq, f64Sign_roundPack, signFactor_false, one_mul, roundPack_eq, packed]
  exact ⟨magnitude, even⟩

/-- Past it the result is the largest finite value, and the exact argument is no smaller (log entry 8). -/
theorem f64Value_roundPack_past {m : Nat} {e : Int} (hm : m ≠ 0)
    (h : 0x7FF * 2 ^ 52 ≤ unboundedMagnitude m e) :
    f64Value (roundPack false m e) = (2 ^ 53 - 1) * 2 ^ (971 : ℤ) ∧ ((2 ^ 53 - 1) * 2 ^ (971 : ℤ) : ℚ) ≤ m * 2 ^ e := by
  constructor
  · have packed : roundedMagnitude m e = 2045 * 2 ^ 52 + (2 ^ 53 - 1) := by
      rw [roundedMagnitude, if_neg hm]
      omega
    obtain ⟨hmant, hscale⟩ :=
      f64Mant_f64Scale_packBits false (P := 2045) (q := 2 ^ 53 - 1) (by norm_num) (.inr (by norm_num)) (by norm_num)
    rw [f64Value_eq, f64Sign_roundPack, signFactor_false, one_mul, roundPack_eq, packed, hmant, hscale]
    norm_num
  · have le := roundSig_le m e
    unfold unboundedMagnitude at h
    rw [← inPlaces_mul]
    have places : (2 ^ 53 - 1 : ℚ) ≤ inPlaces m e ∧ 971 ≤ roundPlace m e ∨
        (2 ^ 52 : ℚ) ≤ inPlaces m e ∧ 972 ≤ roundPlace m e := by
      by_cases hp : 972 ≤ roundPlace m e
      · exact .inr ⟨le_inPlaces hm (by omega), hp⟩
      · have full : roundSig m e = 2 ^ 53 := by omega
        have near := (abs_le.1 (roundSig_nearest m e).1).1
        rw [full] at near
        push_cast at near
        exact .inl ⟨by linarith, by omega⟩
    rcases places with ⟨hsig, hplace⟩ | ⟨hsig, hplace⟩
    · gcongr
      norm_num
    · calc ((2 ^ 53 - 1) * 2 ^ (971 : ℤ) : ℚ) ≤ 2 ^ 53 * 2 ^ (971 : ℤ) := by gcongr; norm_num
        _ = 2 ^ 52 * 2 ^ (972 : ℤ) := by
          rw [show (972 : ℤ) = 1 + 971 by norm_num, zpow_add₀ two_ne_zero]
          ring
        _ ≤ inPlaces m e * 2 ^ roundPlace m e := by gcongr; norm_num

/-! ### It is the nearest -/

/-- A number of the format is a whole number of places, or lies below every normal significand at that place. -/
theorem IsF64.places_or_lt {w : ℚ} (h : IsF64 w) (p : ℤ) :
    (∃ k : ℤ, w = k * 2 ^ p) ∨ (-1074 < p ∧ w < 2 ^ 52 * 2 ^ p) := by
  obtain ⟨k, n, hk, hn, -, rfl⟩ := h
  by_cases hp : p ≤ n
  · left
    refine ⟨k * 2 ^ (n - p).toNat, ?_⟩
    push_cast
    rw [mul_assoc, ← zpow_natCast, ← zpow_add₀ two_ne_zero]
    congr 2
    omega
  · right
    refine ⟨by omega, ?_⟩
    have hk' : (k : ℚ) < 2 ^ 53 := by exact_mod_cast (abs_lt.1 hk).2
    calc (k : ℚ) * 2 ^ n < 2 ^ 53 * 2 ^ n := by gcongr
      _ = 2 ^ 52 * 2 ^ (1 + n) := by
        rw [zpow_add₀ two_ne_zero]
        ring
      _ ≤ 2 ^ 52 * 2 ^ p := by
        gcongr
        · norm_num
        · omega

/-- `v` is as near to `x` as `w`, and where it is no nearer though another number, `even` holds. -/
def NoFarther (x v w : ℚ) (even : Prop) : Prop := |x - v| ≤ |x - w| ∧ (|x - v| = |x - w| → w ≠ v → even)

theorem noFarther_of_lt {x v w : ℚ} {even : Prop} (h : |x - v| < |x - w|) : NoFarther x v w even :=
  ⟨h.le, fun tie => absurd tie h.ne⟩

/-- Mirrored at 0. -/
theorem NoFarther.neg {x v w : ℚ} {even : Prop} (h : NoFarther x v (-w) even) : NoFarther (-x) (-v) w even := by
  have flip : ∀ a b : ℚ, |-a - b| = |a - -b| := fun a b => by rw [← abs_neg]; congr 1; ring
  obtain ⟨near, tie⟩ := h
  rw [NoFarther, flip, flip, neg_neg]
  exact ⟨near, fun e hne => tie e fun hw => hne (by rw [← hw, neg_neg])⟩

/-- Nearness in places is nearness. -/
theorem IsNearestEven.noFarther {t : ℚ} {q : Nat} (h : IsNearestEven t q) (k : ℤ) (p : ℤ) :
    NoFarther (t * 2 ^ p) (q * 2 ^ p) (k * 2 ^ p) (q % 2 = 0) := by
  have pos : (0 : ℚ) < 2 ^ p := by positivity
  obtain ⟨near, tie⟩ := h.nearest k
  rw [NoFarther, ← sub_mul, ← sub_mul, abs_mul, abs_mul, abs_of_pos pos]
  refine ⟨by gcongr, fun e hne => tie (mul_right_cancel₀ pos.ne' e) fun hk => hne ?_⟩
  rw [hk]
  norm_cast

/-- `roundPack` gives the number of the format nearest to its argument, with an even significand where another is as near. -/
theorem roundPack_noFarther (m : Nat) (e : Int) {w : ℚ} (hw : IsF64 w) :
    NoFarther (m * 2 ^ e) (f64Value (roundPack false m e)) w (f64Mant (roundPack false m e) % 2 = 0) := by
  by_cases hm : m = 0
  · subst hm
    rw [f64Value_roundPack_zero]
    refine ⟨by simp, fun tie hne => absurd ?_ hne⟩
    simpa [eq_comm] using tie
  by_cases h : unboundedMagnitude m e < 0x7FF * 2 ^ 52
  · obtain ⟨value, even⟩ := f64Value_roundPack_within hm h
    rw [value, ← inPlaces_mul]
    rcases hw.places_or_lt (roundPlace m e) with ⟨k, rfl⟩ | ⟨hp, hlt⟩
    · obtain ⟨near, tie⟩ := (roundSig_nearest m e).noFarther k (roundPlace m e)
      exact ⟨near, fun t hne => even (tie t hne)⟩
    · have above : 2 ^ 52 * 2 ^ roundPlace m e ≤ inPlaces m e * 2 ^ roundPlace m e := by
        have := le_inPlaces hm hp
        gcongr
      obtain ⟨near, -⟩ := (roundSig_nearest m e).noFarther (2 ^ 52) (roundPlace m e)
      apply noFarther_of_lt
      rw [Int.cast_pow, Int.cast_ofNat, abs_of_nonneg (sub_nonneg.2 above)] at near
      rw [abs_of_pos (show 0 < inPlaces m e * 2 ^ roundPlace m e - w by linarith)]
      linarith
  · obtain ⟨value, large⟩ := f64Value_roundPack_past hm (not_lt.1 h)
    have below := hw.le_largest
    rw [value, NoFarther, abs_of_nonneg (sub_nonneg.2 large), abs_of_nonneg (sub_nonneg.2 (below.trans large))]
    exact ⟨by linarith, fun tie hne => absurd (by linarith) hne⟩

/-- The exact argument of a rounding, with its sign. -/
theorem roundPack_isRne (neg : Bool) (m : Nat) (e : Int) :
    IsRne (signFactor neg * (m * 2 ^ e)) (roundPack neg m e) := by
  have nonneg : (0 : ℚ) ≤ m * 2 ^ e := by positivity
  have nearest : ∀ y, f64Finite y = true → NoFarther (signFactor neg * (m * 2 ^ e)) (f64Value (roundPack neg m e))
      (f64Value y) (f64Mant (roundPack neg m e) % 2 = 0) := by
    intro y hy
    rw [f64Value_roundPack, f64Mant_roundPack]
    cases neg with
    | false => simpa using roundPack_noFarther m e (isF64_f64Value hy)
    | true => simpa using (roundPack_noFarther m e (isF64_f64Value hy).neg).neg
  refine ⟨f64Finite_roundPack neg m e, nearest, fun hneg => ?_, fun hpos => ?_⟩
  · rw [f64Sign_roundPack]
    cases neg with
    | false => rw [signFactor_false] at hneg; linarith
    | true => rfl
  · rw [f64Sign_roundPack]
    cases neg with
    | false => rfl
    | true => rw [signFactor_true] at hpos; linarith

/-- A number of the format is not changed by rounding. -/
theorem f64Value_roundPack_of_isF64 (neg : Bool) {m : Nat} {e : Int} (h : IsF64 (m * 2 ^ e)) :
    f64Value (roundPack neg m e) = signFactor neg * (m * 2 ^ e) := by
  have near := (roundPack_noFarther m e h).1
  rw [sub_self, abs_zero, abs_nonpos_iff, sub_eq_zero] at near
  rw [f64Value_roundPack, ← near]

end Sys2Proof.Machine
end

section
/-! The three operations of the scalar (R190), the guard of the reference (R195), and SCALE and VOLTS. -/

namespace Sys2Proof.Machine

/-! ### The operations -/

/-- An `i32` is exact in binary64 (R196). -/
theorem f64Value_f64OfCode (c : Code32) : f64Value (f64OfCode c) = c.toInt := by
  have small : c.toInt.natAbs < 2 ^ 53 := by
    have lo := BitVec.le_toInt c
    have hi := BitVec.toInt_lt (x := c)
    omega
  rw [f64OfCode, f64Value_roundPack_of_isF64 _ (isF64_of_nat small (by norm_num) (by norm_num)), zpow_zero, mul_one]
  by_cases hneg : c.toInt < 0
  · rw [decide_eq_true hneg, signFactor_true, Nat.cast_natAbs, abs_of_neg hneg]
    push_cast
    ring
  · rw [decide_eq_false hneg, signFactor_false, Nat.cast_natAbs, abs_of_nonneg (not_lt.1 hneg), one_mul]

@[simp] theorem f64Sign_f64OfCode (c : Code32) : f64Sign (f64OfCode c) = decide (c.toInt < 0) := f64Sign_roundPack _ _ _

@[simp] theorem f64Sign_f64DivPow2 (x : F64) (k : Nat) : f64Sign (f64DivPow2 x k) = f64Sign x := f64Sign_roundPack _ _ _

@[simp] theorem f64Sign_f64Mul (x y : F64) : f64Sign (f64Mul x y) = (f64Sign x ^^ f64Sign y) := f64Sign_roundPack _ _ _

@[simp] theorem f64Finite_f64Mul (x y : F64) : f64Finite (f64Mul x y) = true := f64Finite_roundPack _ _ _

/-- The exact argument of a division by a power of 2. -/
theorem f64Value_div_two_pow (x : F64) (k : Nat) :
    f64Value x / 2 ^ k = signFactor (f64Sign x) * (f64Mant x * 2 ^ (f64Scale x - k)) := by
  rw [f64Value_eq, zpow_sub₀ two_ne_zero, zpow_natCast]
  ring

theorem f64DivPow2_isRne (x : F64) (k : Nat) : IsRne (f64Value x / 2 ^ k) (f64DivPow2 x k) := by
  rw [f64Value_div_two_pow]
  exact roundPack_isRne _ _ _

/-- A division whose quotient is a number of the format is exact. -/
theorem f64Value_f64DivPow2_of_isF64 {x : F64} {k : Nat} (h : IsF64 (f64Value x / 2 ^ k)) :
    f64Value (f64DivPow2 x k) = f64Value x / 2 ^ k := by
  rw [f64Value_div_two_pow] at h ⊢
  refine f64Value_roundPack_of_isF64 _ ?_
  cases hs : f64Sign x with
  | false => simpa [hs] using h
  | true => simpa [hs] using h.neg

theorem f64Mul_isRne (x y : F64) : IsRne (f64Value x * f64Value y) (f64Mul x y) := by
  have exact_product : f64Value x * f64Value y =
      signFactor (f64Sign x ^^ f64Sign y) * ((f64Mant x * f64Mant y : Nat) * 2 ^ (f64Scale x + f64Scale y)) := by
    rw [f64Value_eq, f64Value_eq, signFactor_xor, zpow_add₀ two_ne_zero]
    push_cast
    ring
  rw [exact_product]
  exact roundPack_isRne _ _ _

/-- `code / 2^23` is exact (R191). -/
theorem f64Value_code_div (c : Code32) : f64Value (f64DivPow2 (f64OfCode c) 23) = (c.toInt : ℚ) / 2 ^ 23 := by
  have small : |c.toInt| < 2 ^ 53 := by
    have lo := BitVec.le_toInt c
    have hi := BitVec.toInt_lt (x := c)
    rw [abs_lt]
    omega
  rw [← f64Value_f64OfCode]
  apply f64Value_f64DivPow2_of_isF64
  rw [f64Value_f64OfCode]
  exact ⟨c.toInt, -23, small, by norm_num, by norm_num, by rw [zpow_neg]; rfl⟩

/-! ### The guard of the reference -/

theorem f64Value_pos_iff (x : F64) : 0 < f64Value x ↔ f64Sign x = false ∧ f64Mant x ≠ 0 := by
  have pos : (0 : ℚ) < 2 ^ f64Scale x := by positivity
  have nonneg : (0 : ℚ) ≤ f64Mant x * 2 ^ f64Scale x := by positivity
  rw [f64Value_eq]
  cases f64Sign x with
  | false => simp [pos, Nat.pos_iff_ne_zero]
  | true => simp [nonneg]

/-- The references that SCALE accepts are the finite ones above 0 (R195). -/
theorem validVref_iff (v : F64) : validVref v = true ↔ f64Finite v = true ∧ 0 < f64Value v := by
  have zero := f64Mant_eq_zero_iff v
  rw [f64Value_pos_iff, validVref, f64FinitePositive]
  simp only [Bool.and_eq_true, Bool.not_eq_true', decide_eq_true_iff, and_assoc]
  tauto

/-! ### SCALE -/

/-- The three operations of R190 in their order. -/
def scaleProduct (c : Code32) (g : Byte) (vref : F64) : F64 :=
  f64Mul (f64DivPow2 (f64OfCode c) 23) (f64DivPow2 vref g.toNat)

theorem scaleCode_of_legal {cp : ChipParams} {g : Byte} {vref : F64} (hg : validGain cp g = true)
    (hf : f64Finite vref = true) (hv : 0 < f64Value vref) (c : Code32) :
    scaleCode cp c g vref = some (scaleProduct c g vref) := by
  have valid := (validVref_iff vref).2 ⟨hf, hv⟩
  simp [scaleCode, scaleProduct, hg, valid]

theorem scaleCode_of_illegal {cp : ChipParams} {g : Byte} {vref : F64}
    (h : ¬(validGain cp g = true ∧ f64Finite vref = true ∧ 0 < f64Value vref)) (c : Code32) :
    scaleCode cp c g vref = none := by
  rw [← validVref_iff] at h
  simp [scaleCode, h]

theorem scaleCode_eq_some {cp : ChipParams} {c : Code32} {g : Byte} {vref r : F64} (h : scaleCode cp c g vref = some r) :
    r = scaleProduct c g vref := by
  unfold scaleCode at h
  split at h
  · exact (Option.some.inj h).symm
  · cases h

/-- A result of SCALE is a number (R195). -/
theorem f64Finite_of_scaleCode {cp : ChipParams} {c : Code32} {g : Byte} {vref r : F64}
    (h : scaleCode cp c g vref = some r) : f64Finite r = true := by
  rw [scaleCode_eq_some h]
  exact f64Finite_f64Mul _ _

theorem exec_scale (c : Code32) (g : Byte) (vref : F64) (s : State) :
    exec (.scale c g vref) s = replyResult ((scaleCode s.params.chip c g vref).map bytesOf64) s := rfl

theorem exec_scale_some {s : State} {m : Device} {c : Code32} {g : Byte} {vref r : F64} (h : s.devices[s.cur]? = some m)
    (hr : scaleCode s.params.chip c g vref = some r) :
    exec (.scale c g vref) s = .next (s.putDevice (m.respond (0x00#8 :: bytesOf64 r))) := by
  rw [exec_scale, hr]
  exact replyResult_some h _

theorem exec_scale_none {s : State} {m : Device} {c : Code32} {g : Byte} {vref : F64} (h : s.devices[s.cur]? = some m)
    (hr : scaleCode s.params.chip c g vref = none) :
    exec (.scale c g vref) s = .next (s.putDevice (m.respond [0x04#8])) := by
  rw [exec_scale, hr]
  exact replyResult_none h

/-- Settles O9: the three roundings are those of the operations, the first of them exact. -/
theorem scaleRoundsEachOperation : Obligations.ScaleRoundsEachOperation := by
  intro s m c g vref h
  constructor
  · rintro ⟨hg, hf, hv⟩
    have positive : f64Sign vref = false := ((f64Value_pos_iff vref).1 hv).1
    exact ⟨f64DivPow2 (f64OfCode c) 23, f64DivPow2 vref g.toNat, scaleProduct c g vref, f64Value_code_div c, by simp,
      f64DivPow2_isRne vref g.toNat, by simp [positive], f64Mul_isRne _ _, f64Sign_f64Mul _ _,
      exec_scale_some h (scaleCode_of_legal hg hf hv c)⟩
  · exact fun illegal => exec_scale_none h (scaleCode_of_illegal illegal c)

/-! ### VOLTS -/

/-- Everything that a VOLTS which is not refused can have answered (R192). -/
theorem exec_volts_next {s t : State} {m : Device} {c : Code32} (h : s.devices[s.cur]? = some m)
    (ht : exec (.volts c) s = .next t) :
    ∃ g, m.cfgGain = some g ∧
      ((∃ v, scaleCode s.params.chip c g m.vref = some v ∧ t = s.putDevice (m.respond (0x00#8 :: bytesOf64 v))) ∨
       (scaleCode s.params.chip c g m.vref = none ∧ t = s.putDevice (m.respond [0x04#8]))) := by
  obtain ⟨m₁, m', hm, hv, rfl⟩ := onDevice_next ht
  obtain rfl : m = m₁ := Option.some.inj (h.symm.trans hm)
  split at hv
  · split at hv
    · cases hv
    · rename_i g hg
      refine ⟨g, hg, ?_⟩
      split at hv
      · rename_i v hscale
        cases hv
        exact .inl ⟨v, hscale, rfl⟩
      · rename_i hscale
        cases hv
        exact .inr ⟨hscale, rfl⟩
  · cases hv

/-- The eight bytes of a pattern put together again. -/
theorem join64_bytes (x : F64) :
    join64 (x.extractLsb' 56 8) (x.extractLsb' 48 8) (x.extractLsb' 40 8) (x.extractLsb' 32 8)
      (x.extractLsb' 24 8) (x.extractLsb' 16 8) (x.extractLsb' 8 8) (x.extractLsb' 0 8) = x := by
  simp only [join64, BitVec.extractLsb'_append_extractLsb'_eq_extractLsb']
  exact BitVec.extractLsb'_eq_self

theorem bytesOf64_injective : Function.Injective bytesOf64 := by
  intro x y h
  simp only [bytesOf64, List.cons.injEq, and_true] at h
  obtain ⟨h7, h6, h5, h4, h3, h2, h1, h0⟩ := h
  rw [← join64_bytes x, h7, h6, h5, h4, h3, h2, h1, h0, join64_bytes]

/-- Settles O14: what the guard lets through is a rounding, and no rounding leaves the finite values. -/
theorem scaleResultsAreNumbers : Obligations.ScaleResultsAreNumbers := by
  refine ⟨fun cp c g vref => ⟨fun degenerate => scaleCode_of_illegal ?_ c, fun r => f64Finite_of_scaleCode⟩, ?_⟩
  · rintro ⟨-, hf, hv⟩
    rcases degenerate with hnot | hle
    · rw [hf] at hnot
      cases hnot
    · exact absurd hv (not_lt.2 hle)
  · intro s t m m' c x h ht hm' hresp
    have answered : ∀ frame, t = s.putDevice (m.respond frame) → frame = 0x00#8 :: bytesOf64 x := by
      rintro frame rfl
      rw [getElem?_putDevice h] at hm'
      cases hm'
      simpa using hresp
    obtain ⟨g, -, ⟨v, hv, hok⟩ | ⟨-, herr⟩⟩ := exec_volts_next h ht
    · have same : v = x := bytesOf64_injective (List.cons.inj (answered _ hok)).2
      rw [← same]
      exact f64Finite_of_scaleCode hv
    · exact absurd (List.cons.inj (answered _ herr)).1 (by decide)

end Sys2Proof.Machine
end

section
/-! What one port event can do: the event, what is left of the operation after it, and the record after it, said once for
every port call and every answer. -/

namespace Sys2Proof.Machine

/-! ### The port call at which an operation stands -/

section
variable {me : Nat} {l : Lane} {o : InProgress} {rest : List PortCall} (ho : l.dev.op = some o)
include ho

theorem Lane.next_nil (hr : o.rest = []) : l.next me = l := by
  simp [Lane.next, ho, hr]

theorem Lane.next_acquire (hr : o.rest = .acquire :: rest) : l.next me = l.acquire me rest := by
  simp [Lane.next, ho, hr]

theorem Lane.next_setCS {lvl : Level} {eff : Effect} (hr : o.rest = .setCS lvl eff :: rest) :
    l.next me = l.setCS me lvl eff rest := by
  simp [Lane.next, ho, hr]

theorem Lane.next_setRST {lvl : Level} (hr : o.rest = .setRST lvl :: rest) : l.next me = l.setRST me lvl rest := by
  simp [Lane.next, ho, hr]

theorem Lane.next_sleep {d : Duration} {eff : Effect} (hr : o.rest = .sleep d eff :: rest) :
    l.next me = l.sleep d eff rest := by
  simp [Lane.next, ho, hr]

theorem Lane.next_readDRDY {lvl : Level} {n : Nat} (hr : o.rest = .readDRDY lvl n :: rest) :
    l.next me = l.readDRDY me lvl n rest := by
  simp [Lane.next, ho, hr]

theorem Lane.next_pollSleep {lvl : Level} {n : Nat} (hr : o.rest = .pollSleep lvl n :: rest) :
    l.next me = l.pollSleep lvl n rest := by
  simp [Lane.next, ho, hr]

theorem Lane.next_cleanupCS (hr : o.rest = .cleanupCS :: rest) : l.next me = l.cleanupCS me rest := by
  simp [Lane.next, ho, hr]

theorem Lane.next_release {st : Status} (hr : o.rest = .release st :: rest) : l.next me = l.release me o st := by
  simp [Lane.next, ho, hr]

end

/-! ### What it can do -/

/-- How a port call that is made goes on, at a poll count of `c`: `call.Step c rest e rest' eff` says that `call`, with
`rest` after it, may make the event `e`, after which `rest'` is left, and that the event writes `eff`. (`Acquire` on a held
lock makes no event, and `Release` ends the operation: neither is here.) -/
inductive PortCall.Step (c : Nat) (rest : List PortCall) : PortCall → Event → List PortCall → Effect → Prop
  | acquire : Step c rest .acquire .acq rest .nothing
  | setCS (l eff) : Step c rest (.setCS l eff) (.cs l .ok) rest eff
  | setCSError (l eff) : Step c rest (.setCS l eff) (.cs l .gpioError) [.cleanupCS, .release .gpioError] .nothing
  | setRST (l) : Step c rest (.setRST l) (.rst l .ok) rest .nothing
  | setRSTError (l) : Step c rest (.setRST l) (.rst l .gpioError) [.cleanupCS, .release .gpioError] .nothing
  | sleep (d eff) : Step c rest (.sleep d eff) (.sleep d) rest eff
  | transfer (tx rx eff) : Step c rest (.transfer tx eff) (.xfer tx (.rx rx)) rest eff
  | transferError (tx eff) :
      Step c rest (.transfer tx eff) (.xfer tx .transportError) [.cleanupCS, .release .transportError] .nothing
  | seen (l n) : Step c rest (.readDRDY l n) (.drdy (.level l)) rest .nothing
  | again (l l' n) (hl : l' ≠ l) (hn : c + 1 < n) :
      Step c rest (.readDRDY l n) (.drdy (.level l')) (.pollSleep l n :: rest) .nothing
  | timeout (l l' n) (hl : l' ≠ l) :
      Step c rest (.readDRDY l n) (.drdy (.level l')) [.cleanupCS, .release .timeout] .nothing
  | readError (l n) : Step c rest (.readDRDY l n) (.drdy .gpioError) [.cleanupCS, .release .gpioError] .nothing
  | pollSleep (l n) : Step c rest (.pollSleep l n) (.sleep .tPoll) (.readDRDY l n :: rest) .nothing
  | cleanupCS (r) : Step c rest .cleanupCS (.cs .high r) rest .nothing

/-- The record after an event: the level of the line it drove, the lock it took, the read it counted, and the answer it
used up (R35, R36, R38). -/
def Device.observe (m : Device) (e : Event) : Device :=
  match e with
  | .acq => { m with holdsLock := true }
  | .rel => m
  | .cs l .ok => { m with csOut := lineOf l, env := m.env.afterCS }
  | .cs _ .gpioError => { m with csOut := .unknown, env := m.env.afterCS }
  | .rst l .ok => { m with rstOut := lineOf l, env := m.env.afterRST }
  | .rst _ .gpioError => { m with rstOut := .unknown, env := m.env.afterRST }
  | .sleep _ => m
  | .xfer _ _ => { m with env := m.env.afterXfer }
  | .drdy (.level _) => { m with pollCount := m.pollCount + 1, env := m.env.afterDRDY }
  | .drdy .gpioError => { m with env := m.env.afterDRDY }

/-- The record after an event of an operation that goes on; `f` says whether it set `cs_fault`. -/
def Device.advance (m : Device) (e : Event) (f : Bool) (rest : List PortCall) (eff : Effect) (rx : List Byte) : Device :=
  ({ m.observe e with csFault := m.csFault || f }.goto rest).applyEffect eff rx

/-- Who owns the bus after an event of device `me` that is no release. -/
def ownerAfter (me : Nat) (owner : Option Nat) (e : Event) : Option Nat :=
  match e with
  | .acq => some me
  | _ => owner

theorem ownerAfter_of_ne {me : Nat} {owner : Option Nat} {e : Event} (h : e ≠ .acq) : ownerAfter me owner e = owner := by
  cases e with
  | acq => exact absurd rfl h
  | _ => rfl

/-- The lane after an event of an operation that goes on. -/
def Lane.advance (me : Nat) (l : Lane) (e : Event) (f : Bool) (rest : List PortCall) (eff : Effect) (rx : List Byte) :
    Lane :=
  { dev := l.dev.advance e f rest eff rx, owner := ownerAfter me l.owner e, events := l.events ++ [e] }

theorem Device.observe_csFault (m : Device) (e : Event) : (m.observe e).csFault = m.csFault := by
  cases e with
  | cs _ r => cases r <;> rfl
  | rst _ r => cases r <;> rfl
  | drdy r => cases r <;> rfl
  | _ => rfl

theorem Device.advance_false (m : Device) (e : Event) (rest : List PortCall) (eff : Effect) (rx : List Byte) :
    m.advance e false rest eff rx = ((m.observe e).goto rest).applyEffect eff rx := by
  rw [Device.advance, Bool.or_false, ← m.observe_csFault e]

/-- `call`, with `rest` after it, makes an event that takes lane `l` to `l'`. -/
def Lane.Makes (me : Nat) (l : Lane) (call : PortCall) (rest : List PortCall) (l' : Lane) : Prop :=
  (call = .acquire → l.owner = none) ∧ ∃ e rest' eff f rx, call.Step l.dev.pollCount rest e rest' eff ∧
    l' = l.advance me e f rest' eff rx

/-- An event that neither takes the lock nor sets `cs_fault`. -/
theorem Lane.Makes.of_record {me : Nat} {l : Lane} {call : PortCall} {rest rest' : List PortCall} {e : Event}
    {eff : Effect} (rx : List Byte) (hs : call.Step l.dev.pollCount rest e rest' eff) (hc : call ≠ .acquire)
    (he : e ≠ .acq) : l.Makes me call rest (l.record e (((l.dev.observe e).goto rest').applyEffect eff rx)) := by
  refine ⟨fun h => absurd h hc, e, rest', eff, false, rx, hs, ?_⟩
  rw [Lane.advance, Device.advance_false, ownerAfter_of_ne he]
  rfl

/-- Everything a port event can do: an `Acquire` that holds does nothing, a `Release` ends the operation, and any other
call makes its event. -/
theorem Lane.next_cases {me : Nat} {l : Lane} {o : InProgress} {call : PortCall} {rest : List PortCall}
    (ho : l.dev.op = some o) (hr : o.rest = call :: rest) :
    (call = .acquire ∧ (∃ j, l.owner = some j) ∧ l.next me = l) ∨
    (∃ st, call = .release st ∧ l.next me = l.release me o st) ∨
    l.Makes me call rest (l.next me) := by
  cases call with
  | acquire =>
    rw [Lane.next_acquire ho hr]
    cases h : l.owner with
    | none =>
      rw [Lane.acquire_free h]
      exact .inr (.inr ⟨fun _ => h, .acq, rest, .nothing, false, [], .acquire, by
        rw [Lane.advance, Device.advance_false]; rfl⟩)
    | some j => exact .inl ⟨rfl, ⟨j, rfl⟩, Lane.acquire_held h⟩
  | setCS lvl eff =>
    rw [Lane.next_setCS ho hr]
    cases h : l.dev.env.csAnswer me with
    | ok =>
      rw [Lane.setCS_ok h]
      exact .inr (.inr (.of_record [] (.setCS lvl eff) nofun nofun))
    | gpioError =>
      rw [Lane.setCS_error h]
      exact .inr (.inr (.of_record [] (.setCSError lvl eff) nofun nofun))
  | setRST lvl =>
    rw [Lane.next_setRST ho hr]
    cases h : l.dev.env.rstAnswer me with
    | ok =>
      rw [Lane.setRST_ok h]
      exact .inr (.inr (.of_record [] (.setRST lvl) nofun nofun))
    | gpioError =>
      rw [Lane.setRST_error h]
      exact .inr (.inr (.of_record [] (.setRSTError lvl) nofun nofun))
  | sleep d eff =>
    rw [Lane.next_sleep ho hr]
    exact .inr (.inr (.of_record [] (.sleep d eff) nofun nofun))
  | transfer tx eff =>
    rw [Lane.next_transfer ho hr]
    cases h : l.dev.env.xferAnswer me with
    | rx b0 b1 b2 =>
      rw [Lane.transfer_rx h]
      exact .inr (.inr (.of_record _ (.transfer tx _ eff) nofun nofun))
    | transportError =>
      rw [Lane.transfer_error h]
      exact .inr (.inr (.of_record [] (.transferError tx eff) nofun nofun))
  | readDRDY awaited bound =>
    rw [Lane.next_readDRDY ho hr]
    cases h : l.dev.env.drdyAnswer me with
    | gpioError =>
      rw [Lane.readDRDY_error h]
      exact .inr (.inr (.of_record [] (.readError awaited bound) nofun nofun))
    | level lvl =>
      by_cases hne : lvl = awaited
      · subst hne
        rw [Lane.readDRDY_awaited h]
        exact .inr (.inr (.of_record [] (.seen lvl bound) nofun nofun))
      by_cases hn : l.dev.pollCount + 1 < bound
      · rw [Lane.readDRDY_again h hne hn]
        exact .inr (.inr (.of_record [] (.again awaited lvl bound hne hn) nofun nofun))
      · rw [Lane.readDRDY_timeout h hne (by omega)]
        exact .inr (.inr (.of_record [] (.timeout awaited lvl bound hne) nofun nofun))
  | pollSleep awaited bound =>
    rw [Lane.next_pollSleep ho hr]
    exact .inr (.inr (.of_record [] (.pollSleep awaited bound) nofun nofun))
  | cleanupCS =>
    rw [Lane.next_cleanupCS ho hr]
    cases h : l.dev.env.csAnswer me with
    | ok =>
      rw [Lane.cleanupCS_ok h]
      exact .inr (.inr (.of_record [] (.cleanupCS .ok) nofun nofun))
    | gpioError =>
      rw [Lane.cleanupCS_error h]
      exact .inr (.inr ⟨nofun, .cs .high .gpioError, rest, .nothing, true, [], .cleanupCS .gpioError, by
        rw [Lane.advance, Device.advance, Bool.or_true]; rfl⟩)
  | release st => exact .inr (.inl ⟨st, rfl, Lane.next_release ho hr⟩)

end Sys2Proof.Machine
end

section
/-! The turns of the machine as port events and answers: what a step that answers a next state is made of. -/

namespace Sys2Proof.Machine

/-! ### A run of port calls is port events one by one -/

/-- The lane with events before its own. -/
def Lane.after (es : List Event) (l : Lane) : Lane := { l with events := es ++ l.events }

/-- The events recorded before a port event have no part in it. -/
theorem Lane.next_after (me : Nat) (es : List Event) (l : Lane) : (l.after es).next me = (l.next me).after es := by
  cases ho : l.dev.op with
  | none => simp [Lane.next, Lane.after, ho]
  | some o =>
    cases hr : o.rest with
    | nil => simp [Lane.next, Lane.after, ho, hr]
    | cons call rest =>
      simp only [Lane.next, Lane.after, ho, hr]
      cases call with
      | acquire => cases h : l.owner <;> simp [Lane.acquire, h]
      | setCS lvl eff => cases h : l.dev.env.csAnswer me <;> simp [Lane.setCS, h, Lane.record]
      | setRST lvl => cases h : l.dev.env.rstAnswer me <;> simp [Lane.setRST, h, Lane.record]
      | transfer tx eff => cases h : l.dev.env.xferAnswer me <;> simp [Lane.transfer, h, Lane.record]
      | readDRDY awaited bound => cases h : l.dev.env.drdyAnswer me <;> simp [Lane.readDRDY, h, Lane.record]
      | cleanupCS => cases h : l.dev.env.csAnswer me <;> simp [Lane.cleanupCS, h, Lane.record]
      | sleep d eff => simp [Lane.sleep, Lane.record]
      | pollSleep awaited bound => simp [Lane.pollSleep, Lane.record]
      | release st => simp [Lane.release]

section
variable {s : State} {m : Device}

theorem portStep_of_none (h : s.devices[s.cur]? = none) : s.portStep = s := by
  simp [State.portStep, h]

theorem portStep_of_idle (h : s.devices[s.cur]? = some m) (ho : m.op = none) : s.portStep = s := by
  rw [portStep_eq h, Lane.next_idle (by exact ho), withLane_lane h]

theorem portStep_withLane (h : s.cur < s.devices.length) (l : Lane) :
    (s.withLane l).portStep = s.withLane (l.next s.cur) := by
  have here : (s.withLane l).devices[(s.withLane l).cur]? = some l.dev := by simp [h]
  have past : ((s.withLane l).lane l.dev).after l.events = l := by simp [Lane.after, State.lane]
  have next : l.next s.cur = (((s.withLane l).lane l.dev).next s.cur).after l.events := by rw [← Lane.next_after, past]
  rw [portStep_eq here, next]
  simp [State.withLane, Lane.after]

theorem iterate_portStep_withLane (h : s.cur < s.devices.length) (k : Nat) :
    ∀ l : Lane, State.portStep^[k] (s.withLane l) = s.withLane (Lane.run s.cur k l) := by
  induction k with
  | zero => exact fun l => rfl
  | succ k ih =>
    intro l
    rw [Function.iterate_succ_apply, portStep_withLane h, ih, Lane.run_succ]

theorem finish_eq_iterate (h : s.devices[s.cur]? = some m) : s.finish = State.portStep^[m.eventsLeft] s := by
  rw [finish_eq h, ← iterate_portStep_withLane (cur_lt h), withLane_lane h]

end

/-! ### What an instruction does -/

/-- The record with which a host request is answered at once, or begun. -/
inductive Answers (ps : Params) (m : Device) : Device → Prop
  | respond (frame) : Answers ps m (m.respond frame)
  | init {r g e} (ho : m.op = none) (hr : rateAt ps r = some e) (hg : validGain ps.chip g = true) :
      Answers ps m (m.begin (.init r g) (initPlan ps r g e.drate))
  | setcfg {r g e} (ho : m.op = none) (hf : m.fsm.operating = true) (hr : rateAt ps r = some e)
      (hg : validGain ps.chip g = true) : Answers ps m (m.begin (.setcfg r g) (setcfgPlan r g e.drate))
  | read {p n} (polls) (ho : m.op = none) (hf : m.fsm.operating = true) (hr : m.cfgRate.isSome = true)
      (hc : validChannels ps.chip p n = true) : Answers ps m (m.begin (.read p n) (readPlan ps.chip polls p n))

/-- `t` answers the host, or begins its request, in one write of the record whose turn it is. -/
def Answered (s t : State) : Prop :=
  ∃ m m', s.devices[s.cur]? = some m ∧ Answers s.params m m' ∧ t = s.putDevice m'

/-- `t` answers or begins an operation where none is in progress (R140). -/
def Begun (s t : State) : Prop :=
  ∃ m m', s.devices[s.cur]? = some m ∧ m.op = none ∧ Answers s.params m m' ∧ t = s.putDevice m'

theorem Begun.answered {s t : State} (h : Begun s t) : Answered s t :=
  let ⟨m, m', hm, _, ha, ht⟩ := h
  ⟨m, m', hm, ha, ht⟩

theorem startInit_next {r g : Byte} {s t : State} (h : startInit r g s = .next t) : Begun s t := by
  obtain ⟨m, m', hm, hf, rfl⟩ := onDevice_next h
  split at hf
  · cases hf
  rename_i hsome
  have ho : m.op = none := by simpa using hsome
  refine ⟨m, m', hm, ho, ?_, rfl⟩
  split at hf
  · split at hf
    · rename_i e hr hg
      cases hf
      exact .init ho hr hg
    · cases hf
      exact .respond _
  · cases hf

theorem startSetcfg_next {r g : Byte} {s t : State} (h : startSetcfg r g s = .next t) : Begun s t := by
  obtain ⟨m, m', hm, hf, rfl⟩ := onDevice_next h
  split at hf
  · cases hf
  rename_i hsome
  have ho : m.op = none := by simpa using hsome
  refine ⟨m, m', hm, ho, ?_, rfl⟩
  split at hf
  · rename_i hop
    split at hf
    · rename_i e hr hg
      cases hf
      exact .setcfg ho hop hr hg
    · cases hf
      exact .respond _
  · cases hf

theorem startRead_next {p n : Nat} {s t : State} (h : startRead p n s = .next t) : Begun s t := by
  obtain ⟨m, m', hm, hf, rfl⟩ := onDevice_next h
  split at hf
  · cases hf
  rename_i hsome
  have ho : m.op = none := by simpa using hsome
  refine ⟨m, m', hm, ho, ?_, rfl⟩
  split at hf
  · rename_i hop
    split at hf
    · cases hf
    · rename_i e hr
      obtain ⟨r, hrate, -⟩ := Option.bind_eq_some_iff.1 hr
      split at hf
      · rename_i hc
        cases hf
        exact .read _ ho hop (by simp [hrate]) hc
      · cases hf
        exact .respond _
  · cases hf

theorem replyResult_next {payload : Option (List Byte)} {s t : State} (h : replyResult payload s = .next t) :
    Answered s t := by
  cases payload with
  | none =>
    obtain ⟨m, m', hm, hf, rfl⟩ := onDevice_next (f := fun m => .next (m.respond (responseFrame .configError []))) h
    cases hf
    exact ⟨m, _, hm, .respond _, rfl⟩
  | some bytes =>
    obtain ⟨m, m', hm, hf, rfl⟩ := onDevice_next (f := fun m => .next (m.respond (responseFrame .ok bytes))) h
    cases hf
    exact ⟨m, _, hm, .respond _, rfl⟩

theorem execVolts_next {c : Code32} {s t : State} (h : execVolts c s = .next t) : Answered s t := by
  obtain ⟨m, m', hm, hf, rfl⟩ := onDevice_next h
  refine ⟨m, m', hm, ?_, rfl⟩
  split at hf
  · split at hf
    · cases hf
    · split at hf
      all_goals
        cases hf
        exact .respond _
  · cases hf

/-- What an instruction that answers a next state did: a due frame is a port event, a host request is answered or begun,
and run where the turn is a whole one. -/
def Ran (s t : State) : Prop := t = s.portStep ∨ ∃ u, Answered s u ∧ (t = u ∨ t = u.finish)

theorem Ran.sent {tx : List Byte} {s t : State} (h : sendFrame tx s = .next t) : Ran s t :=
  let ⟨_, _, _, ht⟩ := sendFrame_next h
  .inl ht

theorem Ran.answered {s t : State} (h : Answered s t) : Ran s t := .inr ⟨t, h, .inl rfl⟩

theorem Ran.finished {o : Host.Outcome State Fault Refusal} {s t : State} (start : ∀ u, o = .next u → Answered s u)
    (h : mapNext State.finish o = .next t) : Ran s t :=
  let ⟨u, hu, ht⟩ := mapNext_next h
  .inr ⟨u, start u hu, .inr ht.symm⟩

theorem exec_next {i : Instr} {s t : State} (h : exec i s = .next t) : Ran s t := by
  cases i with
  | wreg r v => exact .sent (tx := wregFrame r v) h
  | muxsel p n => exact .sent (tx := muxselFrame p n) h
  | sync => exact .sent (tx := syncFrame) h
  | wakeup => exact .sent (tx := wakeupFrame s.params.chip) h
  | rdata => exact .sent (tx := rdataFrame) h
  | dataread => exact .sent (tx := datareadFrame s.params.chip) h
  | init r g => exact .finished (fun _ hu => (startInit_next hu).answered) h
  | setcfg r g => exact .finished (fun _ hu => (startSetcfg_next hu).answered) h
  | read p n => exact .finished (fun _ hu => (startRead_next hu).answered) h
  | readse p => exact .finished (fun _ hu => (startRead_next hu).answered) h
  | volts c => exact .answered (execVolts_next h)
  | scale c g vref => exact .answered (replyResult_next h)
  | encwreg r v => exact .answered (replyResult_next h)
  | encmux p n => exact .answered (replyResult_next h)
  | muxse p => exact .answered (replyResult_next h)
  | decode b0 b1 b2 => exact .answered (replyResult_next (payload := some _) h)
  | encsyncwake => exact .answered (replyResult_next (payload := some _) h)
  | encrdata => exact .answered (replyResult_next (payload := some _) h)

theorem beginOp_next {i : Instr} {s t : State} (h : beginOp i s = .next t) : Ran s t := by
  cases i with
  | init r g => exact .answered (startInit_next h).answered
  | setcfg r g => exact .answered (startSetcfg_next h).answered
  | read p n => exact .answered (startRead_next h).answered
  | readse p => exact .answered (startRead_next h).answered
  | _ => rw [beginOp] at h; exact exec_next h

/-! ### What a step keeps -/

section
variable {P : State → Prop} (port : ∀ s, P s → P s.portStep)
include port

theorem finish_keeps {s : State} (hs : P s) : P s.finish := by
  cases h : s.devices[s.cur]? with
  | none => rwa [State.finish, h]
  | some m =>
    rw [finish_eq_iterate h]
    exact Function.Iterate.rec P hs port m.eventsLeft

variable (answer : ∀ s t, P s → Answered s t → P t)
include answer

theorem Ran.keeps {s t : State} (h : Ran s t) (hs : P s) : P t := by
  obtain rfl | ⟨u, hu, rfl | rfl⟩ := h
  · exact port s hs
  · exact answer s t hs hu
  · exact finish_keeps port (answer s u hs hu)

/-- What a port event, an answer to the host and the taking of a request keep, a step keeps. -/
theorem step_keeps (pop : ∀ s m, s.devices[s.cur]? = some m → P s → P (s.popRequest m)) {s t : State}
    (hs : P s.takeTurn) (h : step s = .next t) : P t := by
  obtain ⟨m, hm, ⟨-, rfl | rfl | ⟨tx, i, -, -, hi⟩⟩ | ⟨-, ⟨-, rfl⟩ | ⟨bytes, more, i, -, -, hi | hi⟩⟩⟩ := step_next h
  · exact finish_keeps port hs
  · exact port _ hs
  · exact (exec_next hi).keeps port answer hs
  · exact hs
  · exact (exec_next hi).keeps port answer (pop _ m hm hs)
  · exact (beginOp_next hi).keeps port answer (pop _ m hm hs)

end

end Sys2Proof.Machine
end

section
/-! The monitor and the plan along a port event: what a call that keeps the rules leaves keeps them too. -/

namespace Sys2Proof.Machine

/-! ### The record after an event -/

theorem Device.observe_eq (m : Device) (e : Event) : ∃ cs rst lock n env, m.observe e =
    { m with csOut := cs, rstOut := rst, holdsLock := lock, pollCount := n, env := env } := by
  cases e with
  | cs _ r => cases r <;> exact ⟨_, _, _, _, _, rfl⟩
  | rst _ r => cases r <;> exact ⟨_, _, _, _, _, rfl⟩
  | drdy r => cases r <;> exact ⟨_, _, _, _, _, rfl⟩
  | _ => exact ⟨_, _, _, _, _, rfl⟩

section
variable (m : Device) (e : Event) (f : Bool) (rest : List PortCall) (eff : Effect) (rx : List Byte)

@[simp] theorem Device.advance_csOut : (m.advance e f rest eff rx).csOut = (m.observe e).csOut := by
  simp [Device.advance]

@[simp] theorem Device.advance_holdsLock : (m.advance e f rest eff rx).holdsLock = (m.observe e).holdsLock := by
  simp [Device.advance]

@[simp] theorem Device.advance_csFault : (m.advance e f rest eff rx).csFault = (m.csFault || f) := by
  simp [Device.advance]

@[simp] theorem Device.advance_vref : (m.advance e f rest eff rx).vref = m.vref := by
  obtain ⟨_, _, _, _, _, h⟩ := m.observe_eq e
  simp [Device.advance, h]

theorem Device.advance_track : eff.track m.fsm m.cfgRate.isSome =
    ((m.advance e f rest eff rx).fsm, (m.advance e f rest eff rx).cfgRate.isSome) := by
  obtain ⟨_, _, _, _, _, h⟩ := m.observe_eq e
  rw [Device.advance, ← Effect.track_eq, h]
  rfl

variable {m} in
theorem Device.advance_op {o : InProgress} (ho : m.op = some o) :
    ∃ d, (m.advance e f rest eff rx).op = some { o with rest := rest, data := d } := by
  obtain ⟨_, _, _, _, _, h⟩ := m.observe_eq e
  cases eff <;> exact ⟨_, by simp [Device.advance, h, ho]; rfl⟩

end

/-- The cached configuration is legal, or there is none (R34, R47). -/
def cacheOk (ps : Params) (m : Device) : Prop :=
  m.cfgRate.isSome = m.cfgGain.isSome ∧
  (∀ r, m.cfgRate = some r → (rateAt ps r).isSome = true) ∧
  (∀ g, m.cfgGain = some g → validGain ps.chip g = true)

theorem deviceOk_iff (ps : Params) (m : Device) (events : List Event) :
    deviceOk ps m events ↔ cacheOk ps m ∧ validVref m.vref = true ∧
      ∃ μ, Mon.run ps.chip events = some μ ∧ μ.held = m.holdsLock ∧ μ.low = m.csOut.isLow ∧ opOk ps μ m := by
  simp only [deviceOk, cacheOk, and_assoc]

theorem cacheOk_advance {ps : Params} {m : Device} {e : Event} {f : Bool} {rest : List PortCall} {eff : Effect}
    {rx : List Byte} (hl : eff.legal ps = true) (h : cacheOk ps m) : cacheOk ps (m.advance e f rest eff rx) := by
  obtain ⟨_, _, _, _, _, he⟩ := m.observe_eq e
  rw [Device.advance, he]
  cases eff with
  | commit r g =>
    obtain ⟨hr, hg⟩ := Bool.and_eq_true_iff.1 hl
    exact ⟨rfl, fun r' h' => by cases h'; exact hr, fun g' h' => by cases h'; exact hg⟩
  | _ => exact h

/-! ### The monitor, event by event -/

section
variable {cp : ChipParams} {μ μ' : Mon} {e : Event}

theorem Mon.next_of_rested (h : μ.resting = false) (e : Event) : μ.next cp e = μ.free cp e := by
  simp [Mon.next, h]

/-- What a transfer received has no part in the rules. -/
theorem Mon.next_rx (cp : ChipParams) (μ : Mon) (tx rx : List Byte) :
    μ.next cp (.xfer tx (.rx rx)) = μ.next cp (.xfer tx (.rx [])) := by
  simp [Mon.next, Mon.free]

/-- After a CS write that failed, CS is not low, as after one that drove it high. -/
theorem Mon.next_csError (cp : ChipParams) (μ : Mon) (l : Level) :
    μ.next cp (.cs l .gpioError) = μ.next cp (.cs .high .ok) := by
  simp [Mon.next, Mon.free]

theorem Mon.next_rstError {l : Level} (h : μ.next cp (.rst l .gpioError) = some μ') :
    μ.held = true ∧ μ' = { μ with settled := false } := by
  simp only [Mon.next] at h
  split at h
  · simp at h
  · simp only [Mon.free] at h
    grind

theorem Mon.next_drdyError (h : μ.next cp (.drdy .gpioError) = some μ') :
    μ.held = true ∧ μ' = { μ with phase := .over } := by
  simp only [Mon.next] at h
  split at h
  · simp at h
  · simp only [Mon.free] at h
    grind

/-- What every event means for the lock, for CS as the record has it, and for the power-up delay: only the owner of the bus
acts (R141), and it owns the bus until its `Rel`; the delay counts until the reset line changes (R245). -/
theorem Mon.next_some (h : μ.next cp e = some μ') :
    (e ≠ .acq → μ.held = true) ∧ (e ≠ .rel → μ'.held = true) ∧
    (∀ m : Device, μ.low = m.csOut.isLow → μ'.low = (m.observe e).csOut.isLow) ∧
    ((∀ l r, e ≠ .rst l r) → μ.settled = true → μ'.settled = true) := by
  cases e with
  | acq =>
    obtain ⟨-, -, rfl⟩ := Mon.next_acq h
    simp [Device.observe]
  | rel =>
    obtain ⟨hh, -, -, rfl⟩ := Mon.next_rel h
    simp [Device.observe, hh]
  | cs l r =>
    cases r with
    | ok =>
      obtain ⟨hh, -, rfl⟩ := Mon.next_cs h
      cases l <;> simp [Device.observe, hh, lineOf, Line.isLow]
    | gpioError =>
      obtain ⟨hh, -, rfl⟩ := Mon.next_cs (Mon.next_csError cp μ l ▸ h)
      simp [Device.observe, hh, Line.isLow]
  | rst l r =>
    cases r with
    | ok =>
      obtain ⟨hh, -, -, rfl⟩ := Mon.next_rst h
      simp [Device.observe, hh]
    | gpioError =>
      obtain ⟨hh, rfl⟩ := Mon.next_rstError h
      simp [Device.observe, hh]
  | xfer tx res =>
    obtain ⟨hh, -, -, -, φ, -, hμ⟩ := Mon.next_xfer h
    have held : μ'.held = μ.held := by rw [hμ]
    have low : μ'.low = μ.low := by rw [hμ]
    have settled : μ'.settled = μ.settled := by rw [hμ]
    simp [Device.observe, hh, held, low, settled]
  | drdy r =>
    cases r with
    | level l =>
      obtain ⟨hh, -, φ, -, rfl⟩ := Mon.next_drdy h
      simp [Device.observe, hh]
    | gpioError =>
      obtain ⟨hh, rfl⟩ := Mon.next_drdyError h
      simp [Device.observe, hh]
  | sleep d =>
    obtain ⟨hh, hh', hl, hs⟩ := Mon.next_sleep h
    simpa [Device.observe, hh, hh', hl] using hs

/-- The monitor sees the lock as the record has it after the event. -/
theorem Mon.next_held {m : Device} (hh : μ.held = m.holdsLock) (he : e ≠ .rel) (h : μ.next cp e = some μ') :
    μ'.held = (m.observe e).holdsLock := by
  obtain ⟨held, held', -, -⟩ := Mon.next_some h
  rw [held' he]
  cases e with
  | acq => rfl
  | rel => exact absurd rfl he
  | cs _ r => cases r <;> exact (held nofun).symm.trans hh
  | rst _ r => cases r <;> exact (held nofun).symm.trans hh
  | drdy r => cases r <;> exact (held nofun).symm.trans hh
  | _ => exact (held nofun).symm.trans hh

/-- In a wait, a level that is not the awaited one leaves the monitor where it is. -/
theorem Mon.next_otherLevel {l l' : Level} (hh : μ.held = true) (hr : μ.resting = false) (hw : μ.phase.waits l = true)
    (hne : l' ≠ l) : μ.next cp (.drdy (.level l')) = some μ := by
  simp only [Phase.waits, Bool.or_eq_true, Bool.and_eq_true, decide_eq_true_eq] at hw
  rw [Mon.next_of_rested hr, Mon.free, if_pos hh]
  obtain ⟨held, low, settled, resting, phase⟩ := μ
  obtain rfl | ⟨rfl, rfl⟩ := hw
  · rfl
  · cases l' with
    | low => exact absurd rfl hne
    | high => rfl

theorem Mon.next_pollSleep {l : Level} (hh : μ.held = true) (hr : μ.resting = false) (hw : μ.phase.waits l = true) :
    μ.next cp (.sleep .tPoll) = some μ := by
  simp only [Phase.waits, Bool.or_eq_true, Bool.and_eq_true, decide_eq_true_eq] at hw
  rw [Mon.next_of_rested hr, Mon.free, if_pos hh]
  obtain ⟨held, low, settled, resting, phase⟩ := μ
  obtain rfl | ⟨rfl, -⟩ := hw <;> simp [Phase.afterSleep]

end

/-! ### The plan along an event -/

/-- An abort keeps the rules from everywhere in an operation, unless a reset level is yet to be held (R215). -/
theorem planOk_abort {ps : Params} {μ : Mon} (f : Fsm) (c : Bool) {st : Status} (hst : st ≠ .ok) (hh : μ.held = true)
    (hr : μ.resting = false) : planOk ps μ f c [.cleanupCS, .release st] = true := by
  simp [planOk, PortCall.success, Mon.next, Mon.free, hh, hr, hst, PortCall.placed, PortCall.effect, Effect.legal]

section
variable {ps : Params} {n : Nat} {call : PortCall} {rest rest' : List PortCall} {e : Event} {eff : Effect}
  (hs : call.Step n rest e rest' eff)
include hs

theorem PortCall.Step.keeps_rules {μ : Mon} {f : Fsm} {c : Bool} (h : planOk ps μ f c (call :: rest) = true) :
    ∃ μ', μ.next ps.chip e = some μ' ∧ eff.legal ps = true ∧
      planOk ps μ' (eff.track f c).1 (eff.track f c).2 rest' = true := by
  have goes : ∃ μ', μ.next ps.chip call.success = some μ' ∧ call.placed μ.phase = true ∧ call.effect.legal ps = true ∧
      planOk ps μ' (call.effect.track f c).1 (call.effect.track f c).2 rest = true := by
    obtain ⟨st, rfl, -⟩ | ⟨-, goes⟩ := planOk_cons h
    · cases hs
    · exact goes
  obtain ⟨μ', hμ, hp, hl, hq⟩ := goes
  cases hs with
  | acquire => exact ⟨μ', hμ, hl, hq⟩
  | setCS l eff => exact ⟨μ', hμ, hl, hq⟩
  | setRST l => exact ⟨μ', hμ, hl, hq⟩
  | sleep d eff => exact ⟨μ', hμ, hl, hq⟩
  | seen l n => exact ⟨μ', hμ, hl, hq⟩
  | transfer tx rx eff => exact ⟨μ', (Mon.next_rx _ _ _ rx).trans hμ, hl, hq⟩
  | cleanupCS r =>
    cases r with
    | ok => exact ⟨μ', hμ, hl, hq⟩
    | gpioError => exact ⟨μ', (Mon.next_csError _ _ _).trans hμ, hl, hq⟩
  | setCSError l eff =>
    obtain ⟨hh, hr, rfl⟩ := Mon.next_cs hμ
    exact ⟨{ μ with low := false, phase := .fresh }, by simp [Mon.next_of_rested hr, Mon.free, hh], rfl,
      planOk_abort _ _ nofun hh hr⟩
  | setRSTError l =>
    obtain ⟨hh, hlow, hr, rfl⟩ := Mon.next_rst hμ
    exact ⟨{ μ with settled := false }, by simp [Mon.next_of_rested hr, Mon.free, hh, hlow], rfl,
      planOk_abort _ _ nofun hh hr⟩
  | transferError tx eff =>
    obtain ⟨hh, hlow, hset, hr, φ, hφ, -⟩ := Mon.next_xfer hμ
    exact ⟨{ μ with phase := .over }, by simp [Mon.next_of_rested hr, Mon.free, Mon.admits, hh, hlow, hset, hφ], rfl,
      planOk_abort _ _ nofun hh hr⟩
  | again l l' n hne hn =>
    obtain ⟨hh, hr, φ, hφ, rfl⟩ := Mon.next_drdy hμ
    exact ⟨μ, Mon.next_otherLevel hh hr hp hne, rfl, h⟩
  | timeout l l' n hne =>
    obtain ⟨hh, hr, φ, hφ, rfl⟩ := Mon.next_drdy hμ
    exact ⟨μ, Mon.next_otherLevel hh hr hp hne, rfl, planOk_abort _ _ nofun hh hr⟩
  | pollSleep l n =>
    obtain ⟨hh, hr, φ, hφ, rfl⟩ := Mon.next_drdy hμ
    exact ⟨μ, Mon.next_pollSleep hh hr hp, rfl, h⟩
  | readError l n =>
    obtain ⟨hh, hr, φ, hφ, rfl⟩ := Mon.next_drdy hμ
    have polls : μ.phase.polls = true := by
      simp only [PortCall.placed, Phase.waits, Bool.or_eq_true, Bool.and_eq_true, decide_eq_true_eq] at hp
      simp only [Phase.polls, Bool.or_eq_true, decide_eq_true_eq]
      exact hp.imp_right And.left
    exact ⟨{ μ with phase := .over }, by simp [Mon.next_of_rested hr, Mon.free, hh, polls], rfl,
      planOk_abort _ _ nofun hh hr⟩

theorem PortCall.Step.keeps_reset (h : (call :: rest).all PortCall.keepsReset = true) :
    rest'.all PortCall.keepsReset = true ∧ ∀ l r, e ≠ .rst l r := by
  cases hs <;> simp_all [PortCall.keepsReset]

theorem PortCall.Step.ne_rel : e ≠ .rel := by
  cases hs <;> nofun

theorem PortCall.Step.acq_iff : e = .acq ↔ call = .acquire := by
  cases hs <;> simp

end

end Sys2Proof.Machine
end

section
/-! The invariant of the machine: every port event, every answer to the host and so every step keeps it. -/

namespace Sys2Proof.Machine

/-! ### A port event keeps the rules of its device -/

/-- A record between operations, after a `Release` (R217): the monitor's lock is free, and `fsm` is steady. -/
theorem opOk_conclude {ps : Params} {μ μ' : Mon} {m : Device} {o : InProgress} {st : Status}
    (hμ : μ.next ps.chip .rel = some μ')
    (hok : st = .ok → m.fsm.operating = true ∧ m.cfgRate.isSome = true ∧ μ.settled = true)
    (hread : ∀ p n, o.operation = .read p n → m.cfgRate.isSome = true ∧ μ.settled = true) :
    opOk ps μ' ({ m with holdsLock := false, op := none }.conclude o st) := by
  obtain ⟨-, -, hr, rfl⟩ := Mon.next_rel hμ
  by_cases hst : st = .ok
  · obtain ⟨hf, hc, hs⟩ := hok hst
    subst hst
    exact ⟨rfl, hr, .inr hf, hc.trans hf.symm, fun _ => hs⟩
  · rw [Device.conclude_error _ _ hst]
    cases hop : o.operation with
    | init r g => exact ⟨rfl, hr, .inl rfl, rfl, nofun⟩
    | setcfg r g => exact ⟨rfl, hr, .inl rfl, rfl, nofun⟩
    | read p n =>
      obtain ⟨hc, hs⟩ := hread p n hop
      exact ⟨rfl, hr, .inr rfl, hc, fun _ => hs⟩

theorem cacheOk_conclude {ps : Params} {m : Device} (h : cacheOk ps m) (o : InProgress) (st : Status) :
    cacheOk ps ({ m with holdsLock := false, op := none }.conclude o st) := by
  by_cases hst : st = .ok
  · subst hst
    exact h
  · rw [Device.conclude_error _ _ hst]
    cases o.operation with
    | read p n => exact h
    | _ => exact ⟨rfl, nofun, nofun⟩

theorem Device.conclude_csOut (m : Device) (o : InProgress) (st : Status) : (m.conclude o st).csOut = m.csOut := by
  cases st <;> simp [Device.conclude]

theorem Device.conclude_holdsLock (m : Device) (o : InProgress) (st : Status) :
    (m.conclude o st).holdsLock = m.holdsLock := by
  cases st <;> simp [Device.conclude]

theorem Device.conclude_vref (m : Device) (o : InProgress) (st : Status) : (m.conclude o st).vref = m.vref := by
  cases st <;> simp [Device.conclude]

theorem Mon.run_concat {cp : ChipParams} {events : List Event} {μ μ' : Mon} {e : Event} (h : Mon.run cp events = some μ)
    (he : μ.next cp e = some μ') : Mon.run cp (events ++ [e]) = some μ' := by
  rw [Mon.run_append cp events [e] μ h]
  simpa using he

/-- An operation in progress goes on by the rules. -/
theorem opOk_advance {ps : Params} {μ μ' : Mon} {m : Device} {o : InProgress} {call : PortCall} {rest rest' : List PortCall}
    {e : Event} {eff : Effect} (f : Bool) (rx : List Byte) (ho : m.op = some o) (hr : o.rest = call :: rest)
    (hs : call.Step m.pollCount rest e rest' eff) (hμ : μ.next ps.chip e = some μ')
    (hplan : planOk ps μ' (eff.track m.fsm m.cfgRate.isSome).1 (eff.track m.fsm m.cfgRate.isSome).2 rest' = true)
    (hread : ∀ p n, o.operation = .read p n →
      m.cfgRate.isSome = true ∧ μ.settled = true ∧ o.rest.all PortCall.keepsReset = true) :
    opOk ps μ' (m.advance e f rest' eff rx) := by
  obtain ⟨d, hd⟩ := Device.advance_op e f rest' eff rx ho
  have track := Device.advance_track m e f rest' eff rx
  rw [opOk, hd]
  rw [track] at hplan
  refine ⟨hplan, fun p n hop => ?_⟩
  obtain ⟨hc, hset, hkeep⟩ := hread p n hop
  obtain ⟨hkeep', hrst⟩ := hs.keeps_reset (hr ▸ hkeep)
  obtain ⟨-, -, -, settled⟩ := Mon.next_some hμ
  have cached : (eff.track m.fsm m.cfgRate.isSome).2 = true := by cases eff <;> simp [Effect.track, hc]
  rw [track] at cached
  exact ⟨cached, settled hrst hset, hkeep'⟩

/-- What the owner of the bus records leaves it the owner, until its release (R73). -/
theorem busNext_owner (me : Nat) {e : Event} (ha : e ≠ .acq) (hr : e ≠ .rel) :
    busNext (some me) (me, e) = some (some me) := by
  cases e with
  | acq => exact absurd rfl ha
  | rel => exact absurd rfl hr
  | _ => simp [busNext]

/-- Lane `l` of device `me`, with the events `past` before it, has operation `o` in progress and keeps the rules: what the
invariant says of it, with its monitor `μ`. -/
structure Lane.InRules (ps : Params) (me : Nat) (past : List Event) (l : Lane) (o : InProgress) (μ : Mon) : Prop where
  lock : l.dev.holdsLock = true ↔ l.owner = some me
  cache : cacheOk ps l.dev
  vref : validVref l.dev.vref = true
  run : Mon.run ps.chip past = some μ
  held : μ.held = l.dev.holdsLock
  low : μ.low = l.dev.csOut.isLow
  op : l.dev.op = some o
  plan : planOk ps μ l.dev.fsm l.dev.cfgRate.isSome o.rest = true
  read : ∀ p n, o.operation = .read p n →
    l.dev.cfgRate.isSome = true ∧ μ.settled = true ∧ o.rest.all PortCall.keepsReset = true

/-- Lane `l'` comes from `l` by an event that the monitors of its trace and of the bus let happen, and its record fits. -/
def Lane.Follows (ps : Params) (me : Nat) (past : List Event) (l l' : Lane) : Prop :=
  ∃ e, l'.events = l.events ++ [e] ∧ deviceOk ps l'.dev (past ++ [e]) ∧ busNext l.owner (me, e) = some l'.owner ∧
    (l'.dev.holdsLock = true ↔ l'.owner = some me)

section
variable {ps : Params} {me : Nat} {past : List Event} {l : Lane} {o : InProgress} {μ : Mon} {call : PortCall}
  {rest rest' : List PortCall} {e : Event} {eff : Effect} (h : l.InRules ps me past o μ)
include h

theorem Lane.InRules.owner (hh : μ.held = true) : l.owner = some me := h.lock.1 (h.held ▸ hh)

theorem Lane.InRules.release {st : Status} (hr : o.rest = .release st :: rest) :
    l.Follows ps me past (l.release me o st) := by
  obtain ⟨st', hst, -, ⟨μ', hμ⟩, hok⟩ | ⟨hne, -⟩ := planOk_cons (hr ▸ h.plan)
  · cases hst
    obtain ⟨hh, -, -, hμ'⟩ := Mon.next_rel hμ
    have hread (p n) (hop : o.operation = .read p n) : l.dev.cfgRate.isSome = true ∧ μ.settled = true := by
      obtain ⟨hc, hset, -⟩ := h.read p n hop
      exact ⟨hc, hset⟩
    refine ⟨.rel, rfl, (deviceOk_iff _ _ _).2 ⟨cacheOk_conclude h.cache o st, ?_, μ', Mon.run_concat h.run hμ, ?_, ?_,
      opOk_conclude hμ hok hread⟩, ?_, ?_⟩
    · simpa [Lane.release, Device.conclude_vref] using h.vref
    · simp [Lane.release, Device.conclude_holdsLock, hμ']
    · simp [Lane.release, Device.conclude_csOut, hμ', h.low]
    · simp [Lane.release, h.owner hh, busNext]
    · simp [Lane.release, Device.conclude_holdsLock, h.owner hh]
  · exact absurd rfl (hne st)

theorem Lane.InRules.advance (hr : o.rest = call :: rest) (hs : call.Step l.dev.pollCount rest e rest' eff)
    (hfree : call = .acquire → l.owner = none) (f : Bool) (rx : List Byte) :
    l.Follows ps me past (l.advance me e f rest' eff rx) := by
  obtain ⟨μ', hμ, hl, hplan⟩ := hs.keeps_rules (hr ▸ h.plan)
  obtain ⟨held, held', low, -⟩ := Mon.next_some hμ
  have hheld' := Mon.next_held h.held hs.ne_rel hμ
  have owner : ownerAfter me l.owner e = some me ∧ busNext l.owner (me, e) = some (some me) := by
    by_cases ha : e = .acq
    · subst ha
      exact ⟨rfl, by rw [hfree (hs.acq_iff.1 rfl)]; rfl⟩
    · rw [h.owner (held ha)]
      exact ⟨ownerAfter_of_ne ha, busNext_owner me ha hs.ne_rel⟩
  refine ⟨e, rfl, (deviceOk_iff _ _ _).2 ⟨cacheOk_advance hl h.cache, ?_, μ', Mon.run_concat h.run hμ, ?_, ?_,
    opOk_advance f rx h.op hr hs hμ hplan h.read⟩, owner.2.trans (congrArg some owner.1.symm), ?_⟩
  · simpa [Lane.advance] using h.vref
  · simpa [Lane.advance] using hheld'
  · simpa [Lane.advance] using low l.dev h.low
  · simp [Lane.advance, ← hheld', held' hs.ne_rel, owner.1]

end

/-- A port event by the rules: none, or one that they let happen. -/
theorem Lane.next_keeps_rules {ps : Params} {me : Nat} {l : Lane} {past : List Event} (h : deviceOk ps l.dev past)
    (hlock : l.dev.holdsLock = true ↔ l.owner = some me) : l.next me = l ∨ l.Follows ps me past (l.next me) := by
  obtain ⟨hcache, hvref, μ, hrun, hheld, hlow, hop⟩ := (deviceOk_iff ps l.dev past).1 h
  cases ho : l.dev.op with
  | none => exact .inl (Lane.next_idle ho)
  | some o =>
    rw [opOk, ho] at hop
    have rules : l.InRules ps me past o μ := ⟨hlock, hcache, hvref, hrun, hheld, hlow, ho, hop.1, hop.2⟩
    cases hr : o.rest with
    | nil => exact .inl (Lane.next_nil ho hr)
    | cons call rest =>
      obtain ⟨-, -, hn⟩ | ⟨st, rfl, hn⟩ | ⟨hfree, e, rest', eff, f, rx, hs, hn⟩ := Lane.next_cases (me := me) ho hr
      · exact .inl hn
      · exact .inr (hn ▸ rules.release hr)
      · exact .inr (hn ▸ rules.advance hr hs hfree f rx)

/-! ### On the bus -/

theorem traceOf_append (i : Nat) (a b : List (Nat × Event)) : traceOf i (a ++ b) = traceOf i a ++ traceOf i b :=
  List.filterMap_append

theorem traceOf_self (i : Nat) (es : List Event) : traceOf i (es.map fun e => (i, e)) = es := by
  simp [traceOf, List.filterMap_map]

theorem traceOf_other {i j : Nat} (h : j ≠ i) (es : List Event) : traceOf i (es.map fun e => (j, e)) = [] := by
  simp [traceOf, List.filterMap_map, h]

theorem busRun_concat {trace : List (Nat × Event)} {owner owner' : Option Nat} {p : Nat × Event}
    (h : busRun trace = some owner) (hp : busNext owner p = some owner') : busRun (trace ++ [p]) = some owner' := by
  rw [busRun] at h ⊢
  simp [List.foldlM_append, h, hp]

/-- An event makes no other device the owner of the bus, and takes the bus from none. -/
theorem busNext_other {owner owner' : Option Nat} {me i : Nat} {e : Event} (h : busNext owner (me, e) = some owner')
    (hi : i ≠ me) : owner' = some i ↔ owner = some i := by
  cases owner with
  | none => cases e <;> grind [busNext]
  | some j => cases e <;> grind [busNext]

theorem getElem?_set_cases {devices : List Device} {i j : Nat} {m x : Device} (h : (devices.set j m)[i]? = some x) :
    (i = j ∧ x = m) ∨ (i ≠ j ∧ devices[i]? = some x) := by
  by_cases hij : i = j
  · subst hij
    rw [List.getElem?_set_self'] at h
    obtain ⟨-, -, rfl⟩ := Option.map_eq_some_iff.1 h
    exact .inl ⟨rfl, rfl⟩
  · rw [List.getElem?_set_ne (Ne.symm hij)] at h
    exact .inr ⟨hij, h⟩

/-- The invariant after the lane of the device whose turn it is became `l`. -/
theorem Inv.withLane {s : State} {m : Device} {l : Lane} (h : Inv s) (hm : s.devices[s.cur]? = some m)
    (hlock : l.dev.holdsLock = true ↔ l.owner = some s.cur)
    (hdev : deviceOk s.params l.dev (traceOf s.cur s.trace ++ l.events))
    (hother : ∀ i, i ≠ s.cur → (l.owner = some i ↔ s.busOwner = some i))
    (hbus : busRun (s.withLane l).trace = some l.owner) : Inv (s.withLane l) := by
  obtain ⟨hparams, hlocks, hdevices, howner, -⟩ := h
  refine ⟨hparams, fun i x hi => ?_, fun i x hi => ?_, fun i hi => ?_, hbus⟩
  · obtain ⟨rfl, rfl⟩ | ⟨hic, hi⟩ := getElem?_set_cases hi
    · exact hlock
    · exact (hlocks i x hi).trans (hother i hic).symm
  · rw [State.withLane_trace, traceOf_append]
    obtain ⟨rfl, rfl⟩ | ⟨hic, hi⟩ := getElem?_set_cases hi
    · rwa [traceOf_self]
    · rw [traceOf_other (Ne.symm hic), List.append_nil]
      exact hdevices i x hi
  · rw [State.withLane_devices, List.length_set]
    by_cases hic : i = s.cur
    · exact hic ▸ cur_lt hm
    · exact howner i ((hother i hic).1 hi)

theorem Inv.portStep {s : State} (h : Inv s) : Inv s.portStep := by
  cases hm : s.devices[s.cur]? with
  | none => rwa [portStep_of_none hm]
  | some m =>
    obtain ⟨-, hlock, hdevices, -, hbus⟩ := id h
    rw [portStep_eq hm]
    obtain hn | ⟨e, hev, hdev, hnext, hlock'⟩ :=
      Lane.next_keeps_rules (l := s.lane m) (hdevices s.cur m hm) (hlock s.cur m hm)
    · rwa [hn, withLane_lane hm]
    · rw [State.lane_events, List.nil_append] at hev
      refine h.withLane hm hlock' (hev ▸ hdev) (fun i hi => busNext_other hnext hi) ?_
      rw [State.withLane_trace, hev]
      exact busRun_concat hbus hnext

/-! ### Answers to the host -/

theorem putDevice_eq_withLane (s : State) (m : Device) :
    s.putDevice m = s.withLane { dev := m, owner := s.busOwner, events := [] } := by
  simp [State.putDevice, State.withLane]

/-- A new record of the device whose turn it is that holds the lock as before and fits its trace. -/
theorem Inv.putDevice {s : State} {m m' : Device} (h : Inv s) (hm : s.devices[s.cur]? = some m)
    (hlock : m'.holdsLock = m.holdsLock) (hdev : deviceOk s.params m' (traceOf s.cur s.trace)) : Inv (s.putDevice m') := by
  obtain ⟨-, hlocks, -, -, hbus⟩ := id h
  rw [putDevice_eq_withLane]
  refine h.withLane hm (hlock ▸ hlocks s.cur m hm) ?_ (fun i hi => Iff.rfl) ?_
  · simpa using hdev
  · simpa using hbus

section
variable {ps : Params} {μ : Mon} (hp : ps.chip.legal = true) (hh : μ.held = false) (hr : μ.resting = false) (f : Fsm)
  (c : Bool)
include hp hh hr

/-- The plan of INIT keeps the rules from everywhere between operations (R145). -/
theorem planOk_initPlan {r g : Byte} {e : RateEntry} (he : rateAt ps r = some e) (hg : validGain ps.chip g = true) :
    planOk ps μ f c (initPlan ps r g e.drate) = true := by
  simp [initPlan, resetPulse, writeConfig, planOk, PortCall.success, PortCall.effect, PortCall.placed, Effect.legal,
    Effect.track, Mon.next, Mon.free, Mon.admits, Phase.afterSleep, Phase.afterLevel, Phase.waits, Phase.afterFrame,
    decodeChip_drate _ hp, decodeChip_adcon _ hp, hh, hr, he, hg, Fsm.operating]

/-- The plan of SETCFG, with the power-up delay waited for (R151). -/
theorem planOk_setcfgPlan (hs : μ.settled = true) {r g : Byte} {e : RateEntry} (he : rateAt ps r = some e)
    (hg : validGain ps.chip g = true) : planOk ps μ f c (setcfgPlan r g e.drate) = true := by
  simp [setcfgPlan, writeConfig, planOk, PortCall.success, PortCall.effect, PortCall.placed, Effect.legal,
    Effect.track, Mon.next, Mon.free, Mon.admits, Phase.afterFrame,
    decodeChip_drate _ hp, decodeChip_adcon _ hp, hh, hr, hs, he, hg, Fsm.operating]

/-- The plan of READ, with a configuration cached (R155). -/
theorem planOk_readPlan (hcache : c = true) (hs : μ.settled = true) (polls : Nat) {p n : Nat}
    (hc : validChannels ps.chip p n = true) : planOk ps μ f c (readPlan ps.chip polls p n) = true := by
  simp [readPlan, planOk, PortCall.success, PortCall.effect, PortCall.placed, Effect.legal,
    Effect.track, Mon.next, Mon.free, Mon.admits, Phase.afterFrame, Phase.afterSleep, Phase.afterLevel, Phase.waits,
    decodeChip_mux _ hp _ _ hc, decodeChip_wakeupFrame _ hp, hh, hr, hs, hcache, Fsm.operating]

end

theorem Answers.holdsLock {ps : Params} {m m' : Device} (h : Answers ps m m') : m'.holdsLock = m.holdsLock := by
  cases h <;> rfl

/-- A record with another operation in progress fits where that operation does. -/
theorem deviceOk_begin {ps : Params} {m : Device} {events : List Event} (hd : deviceOk ps m events) {o : Operation}
    {plan : List PortCall} (ho : ∀ μ, opOk ps μ m → μ.held = m.holdsLock → opOk ps μ (m.begin o plan)) :
    deviceOk ps (m.begin o plan) events := by
  rw [deviceOk_iff] at hd ⊢
  obtain ⟨hcache, hvref, μ, hrun, hheld, hlow, hop⟩ := hd
  exact ⟨hcache, hvref, μ, hrun, hheld, hlow, ho μ hop hheld⟩

theorem Answers.deviceOk {ps : Params} {m m' : Device} {events : List Event} (hp : ps.chip.legal = true)
    (h : Answers ps m m') (hd : deviceOk ps m events) : deviceOk ps m' events := by
  cases h with
  | respond frame => exact hd
  | init ho hr hg =>
    refine deviceOk_begin hd fun μ hop hheld => ?_
    rw [opOk, ho] at hop
    obtain ⟨hl, hres, -⟩ := hop
    exact ⟨planOk_initPlan hp (hheld.trans hl) hres _ _ hr hg, nofun⟩
  | setcfg ho hf hr hg =>
    refine deviceOk_begin hd fun μ hop hheld => ?_
    rw [opOk, ho] at hop
    obtain ⟨hl, hres, -, -, hset⟩ := hop
    exact ⟨planOk_setcfgPlan hp (hheld.trans hl) hres _ _ (hset hf) hr hg, nofun⟩
  | read polls ho hf hr hc =>
    refine deviceOk_begin hd fun μ hop hheld => ?_
    rw [opOk, ho] at hop
    obtain ⟨hl, hres, -, -, hset⟩ := hop
    exact ⟨planOk_readPlan hp (hheld.trans hl) hres _ _ hr (hset hf) polls hc, fun _ _ _ => ⟨hr, hset hf, rfl⟩⟩

theorem Inv.answered {s t : State} (h : Inv s) (ha : Answered s t) : Inv t := by
  obtain ⟨m, m', hm, hans, rfl⟩ := ha
  obtain ⟨⟨hp, -⟩, -, hdevices, -⟩ := id h
  exact h.putDevice hm hans.holdsLock (hans.deviceOk hp (hdevices s.cur m hm))

theorem Inv.popRequest {s : State} {m : Device} (h : Inv s) (hm : s.devices[s.cur]? = some m) : Inv (s.popRequest m) := by
  obtain ⟨-, -, hdevices, -⟩ := id h
  exact h.putDevice (m' := { m with env := { m.env with requests := m.env.requests.tail } }) hm rfl (hdevices s.cur m hm)

/-- Settles O42: a step is made of port events, answers to the host and the taking of a request, and each of them keeps the
invariant. -/
theorem everyStepKeepsTheInvariant : Obligations.EveryStepKeepsTheInvariant :=
  fun s _ h hstep =>
    have turn : Inv s.takeTurn := h
    step_keeps (P := Inv) (fun _ => Inv.portStep) (fun _ _ => Inv.answered) (fun _ _ hm h => h.popRequest hm) turn hstep

end Sys2Proof.Machine
end

section
/-! What follows from the invariant and from one step: chip select, the frame of a step, and the state after construction. -/

namespace Sys2Proof.Machine

/-! ### Chip select (R43) -/

theorem Mon.run_keeps {cp : ChipParams} {P : Mon → Prop} (hstart : P Mon.start)
    (hnext : ∀ μ e μ', P μ → μ.next cp e = some μ' → P μ') {events : List Event} {μ : Mon}
    (h : Mon.run cp events = some μ) : P μ := by
  induction events using List.reverseRecOn generalizing μ with
  | nil => exact Option.some.inj h ▸ hstart
  | append_singleton es e ih =>
    obtain ⟨ν, hν, he⟩ := Option.bind_eq_some_iff.1 (List.foldlM_append.symm.trans h)
    exact hnext ν e μ (ih hν) (by simpa using he)

/-- With CS low the lock is held: a `Rel` asks for CS not low, and only the owner drives CS (R141). -/
theorem Mon.run_low {cp : ChipParams} {events : List Event} {μ : Mon} (h : Mon.run cp events = some μ)
    (hl : μ.low = true) : μ.held = true := by
  refine Mon.run_keeps (P := fun μ => μ.low = true → μ.held = true) nofun (fun μ e μ' _ he hlow => ?_) h hl
  by_cases hrel : e = .rel
  · subst hrel
    obtain ⟨-, hlow', -, rfl⟩ := Mon.next_rel he
    exact absurd hlow (by simp [hlow'])
  · obtain ⟨-, held', -⟩ := Mon.next_some he
    exact held' hrel

/-- Settles O43: the monitor of a trace has CS low only with the lock held, and it shows both as the record has them. -/
theorem onlyTheBusOwnerHasChipSelectLow : Obligations.OnlyTheBusOwnerHasChipSelectLow := by
  rintro s ⟨-, hlock, hdevices, -⟩
  have owner : ∀ i m, s.devices[i]? = some m → m.csOut = .low → s.busOwner = some i := by
    intro i m hm hcs
    obtain ⟨-, -, μ, hrun, hheld, hlow, -⟩ := (deviceOk_iff _ _ _).1 (hdevices i m hm)
    exact (hlock i m hm).1 (hheld ▸ Mon.run_low hrun (hlow.trans (by rw [hcs]; rfl)))
  exact ⟨owner, fun i j m m' hi hj hm hm' => Option.some.inj ((owner i m hi hm).symm.trans (owner j m' hj hm'))⟩

/-! ### The frame of a step -/

/-- A record that keeps the reference voltage, and `cs_fault` where it was set (R39, R41). -/
def Device.Keeps (m m' : Device) : Prop := m'.vref = m.vref ∧ (m.csFault = true → m'.csFault = true)

theorem Device.Keeps.trans {a b c : Device} (h : a.Keeps b) (h' : b.Keeps c) : a.Keeps c := by
  obtain ⟨hv, hf⟩ := h
  obtain ⟨hv', hf'⟩ := h'
  exact ⟨hv'.trans hv, hf' ∘ hf⟩

theorem Device.keeps_conclude (m : Device) (o : InProgress) (st : Status) : m.Keeps (m.conclude o st) := by
  cases st <;> simp [Device.Keeps, Device.conclude]

theorem Lane.next_keeps (me : Nat) (l : Lane) : l.dev.Keeps (l.next me).dev := by
  cases ho : l.dev.op with
  | none => rw [Lane.next_idle ho]; exact ⟨rfl, id⟩
  | some o =>
    cases hr : o.rest with
    | nil => rw [Lane.next_nil ho hr]; exact ⟨rfl, id⟩
    | cons call rest =>
      obtain ⟨-, -, hn⟩ | ⟨st, -, hn⟩ | ⟨-, e, rest', eff, f, rx, -, hn⟩ := Lane.next_cases (me := me) ho hr
      · rw [hn]; exact ⟨rfl, id⟩
      · rw [hn]; exact Device.keeps_conclude { l.dev with holdsLock := false, op := none } o st
      · rw [hn]; exact ⟨by simp [Lane.advance], fun hf => by simp [Lane.advance, hf]⟩

theorem Answers.keeps {ps : Params} {m m' : Device} (h : Answers ps m m') : m.Keeps m' := by
  cases h <;> exact ⟨rfl, id⟩

theorem putDevice_withLane (s : State) (l : Lane) (m : Device) :
    (s.withLane l).putDevice m = s.withLane { l with dev := m } := by
  simp [State.withLane, State.putDevice]

/-- `t` is `s` with another lane of the device whose turn it is, whose record `m` it keeps. -/
def OnLane (s : State) (m : Device) (t : State) : Prop := ∃ l : Lane, m.Keeps l.dev ∧ t = s.withLane l

section
variable {s t u : State} {m x : Device} (hcur : s.cur < s.devices.length) (h : OnLane s m t)
include hcur h

theorem OnLane.portStep : OnLane s m t.portStep := by
  obtain ⟨l, hl, rfl⟩ := h
  exact ⟨_, hl.trans (Lane.next_keeps _ l), portStep_withLane hcur l⟩

theorem OnLane.putDevice {m' : Device} (hx : t.devices[t.cur]? = some x) (hk : x.Keeps m') :
    OnLane s m (t.putDevice m') := by
  obtain ⟨l, hl, rfl⟩ := h
  obtain rfl : l.dev = x := by simpa [hcur] using hx
  exact ⟨_, hl.trans hk, putDevice_withLane s l m'⟩

theorem OnLane.answered (ha : Answered t u) : OnLane s m u := by
  obtain ⟨x, m', hx, ha, rfl⟩ := ha
  exact h.putDevice hcur hx ha.keeps

theorem OnLane.popRequest (hx : t.devices[t.cur]? = some x) : OnLane s m (t.popRequest x) :=
  h.putDevice (m' := { x with env := { x.env with requests := x.env.requests.tail } }) hcur hx ⟨rfl, id⟩

end

/-- All that a step does is to the lane of the device whose turn it is. -/
theorem step_onLane {s t : State} (h : step s = .next t) :
    ∃ m, s.devices[s.turn.agent]? = some m ∧ OnLane s.takeTurn m t := by
  obtain ⟨m, hm, -⟩ := step_next h
  have hcur := cur_lt hm
  have start : OnLane s.takeTurn m s.takeTurn := ⟨s.takeTurn.lane m, ⟨rfl, id⟩, (withLane_lane hm).symm⟩
  exact ⟨m, hm, step_keeps (P := OnLane s.takeTurn m) (fun _ hu => hu.portStep hcur)
    (fun _ _ hu ha => hu.answered hcur ha) (fun _ _ hx hu => hu.popRequest hcur hx) start h⟩

/-- Settles O48: the lane of a device is its record, the bus owner and its own events. -/
theorem aStepTouchesOnlyItsDevice : Obligations.AStepTouchesOnlyItsDevice := by
  intro s t h
  obtain ⟨m, hm, l, hl, rfl⟩ := step_onLane h
  refine ⟨rfl, by simp, fun j hj => by simp [Ne.symm hj], fun j a b ha hb => ?_, l.events, by simp⟩
  by_cases hj : j = s.turn.agent
  · subst hj
    obtain rfl : m = a := Option.some.inj (hm.symm.trans ha)
    obtain rfl : l.dev = b := by simpa [(List.getElem?_eq_some_iff.1 hm).1] using hb
    exact hl
  · have same : s.devices[j]? = some b := by simpa [Ne.symm hj] using hb
    obtain rfl : a = b := Option.some.inj (ha.symm.trans same)
    exact ⟨rfl, id⟩

/-! ### After construction (R53) -/

theorem validVref_vrefOf (i : Nat) : validVref (vrefOf i) = true := by
  rw [vrefOf]
  split
  · assumption
  · decide

theorem mem_reset_devices {m : Device} (h : m ∈ State.reset.devices) : ∃ i, m = Device.constructed (vrefOf i) := by
  obtain rfl | h := List.mem_cons.1 h
  · exact ⟨0, rfl⟩
  · obtain ⟨k, -, rfl⟩ := List.mem_map.1 h
    exact ⟨k + 1, rfl⟩

/-- Settles O40: every record is `Device.constructed` of an admitted reference voltage. -/
theorem resetState : Obligations.ResetState := by
  refine ⟨rfl, rfl, List.cons_ne_nil _ _, fun m hm => ?_⟩
  obtain ⟨i, rfl⟩ := mem_reset_devices hm
  exact ⟨rfl, rfl, rfl, rfl, rfl, rfl, rfl, rfl, rfl, rfl, (validVref_iff _).1 (validVref_vrefOf i)⟩

theorem paramsOk_default : paramsOk Params.default := by
  obtain ⟨-, hlegal, -, -, -, -, -, -, hinit, hpolls⟩ := decidedParameters
  exact ⟨hlegal, by simp [Params.default, rateEntries, rateCodes], hinit, hpolls⟩

theorem deviceOk_constructed {ps : Params} {v : F64} (hv : validVref v = true) :
    deviceOk ps (Device.constructed v) [] :=
  ⟨rfl, nofun, nofun, hv, Mon.start, rfl, rfl, rfl, rfl, rfl, .inl rfl, rfl, nofun⟩

/-- Settles O41: no lock is held, no event has happened, and every record is as constructed. -/
theorem invariantAtReset : Obligations.InvariantAtReset := by
  refine ⟨paramsOk_default, fun i m hm => ?_, fun i m hm => ?_, nofun, rfl⟩
  all_goals obtain ⟨j, rfl⟩ := mem_reset_devices (List.mem_of_getElem? hm)
  · exact ⟨nofun, nofun⟩
  · exact deviceOk_constructed (validVref_vrefOf j)

/-! ### Status words (R31, R47) -/

/-- The fields of CFG, one above the other. -/
theorem Device.cfg_toNat (m : Device) : m.cfg.toNat =
    2 ^ 15 * m.cfgValid.toNat + 2 ^ 8 * ((m.cfgGain.getD 0#8).toNat % 2 ^ 3) + (m.cfgRate.getD 0#8).toNat := by
  have hg := Nat.mod_lt (m.cfgGain.getD 0#8).toNat (show 0 < 2 ^ 3 by decide)
  have hr := (m.cfgRate.getD 0#8).isLt
  simp only [Device.cfg, BitVec.toNat_append, BitVec.toNat_ofBool, BitVec.toNat_setWidth, BitVec.toNat_ofNat]
  rw [← Nat.shiftLeft_add_eq_or_of_lt hr, ← Nat.shiftLeft_add_eq_or_of_lt hg, Nat.zero_mod, Nat.or_zero]
  simp only [Nat.shiftLeft_eq]
  ring

/-- Settles O50: the value and the bits of CFG by its fields; the codes are computed. -/
theorem statusWords : Obligations.StatusWords := by
  refine ⟨fun m r g hr hg h => ?_, fun m => ⟨?_, ?_⟩, fun v => ?_, rfl, rfl⟩
  · rw [Device.cfg_toNat]
    simp [Device.cfgValid, hr, hg]
    omega
  · rw [BitVec.getLsbD, Device.cfg_toNat, Nat.testBit_eq_decide_div_mod_eq, ← Device.cfgValid]
    cases m.cfgValid <;> simp <;> omega
  · apply BitVec.eq_of_toNat_eq
    rw [BitVec.extractLsb'_toNat, Device.cfg_toNat, Nat.shiftRight_eq_div_pow]
    cases m.cfgValid <;> simp <;> omega
  · apply BitVec.eq_of_toNat_eq
    rw [Device.cfg_toNat]
    rfl

end Sys2Proof.Machine
end

section
/-! Port calls that fail, the wait for data-ready, and the `Acquire` that holds. -/

namespace Sys2Proof.Machine

/-! ### Failed calls (R211, R212) -/

/-- Settles O27: the answer at the head of the queue is the one drawn, and each failing call is `Abort`. -/
theorem failedPortCallsAbort : Obligations.FailedPortCallsAbort := by
  intro me l o rest ho
  refine ⟨fun tx eff xs hr hx => ?_, fun lvl eff css hr hx => ?_, fun lvl rsts hr hx => ?_, fun lvl n ds hr hx => ?_⟩
  · rw [Lane.next_transfer ho hr, Lane.transfer_error (by simp [Env.xferAnswer, hx]), Env.afterXfer, hx, List.tail_cons]
  · rw [Lane.next_setCS ho hr, Lane.setCS_error (by simp [Env.csAnswer, hx]), Env.afterCS, hx, List.tail_cons]
  · rw [Lane.next_setRST ho hr, Lane.setRST_error (by simp [Env.rstAnswer, hx]), Env.afterRST, hx, List.tail_cons]
  · rw [Lane.next_readDRDY ho hr, Lane.readDRDY_error (by simp [Env.drdyAnswer, hx]), Env.afterDRDY, hx, List.tail_cons]

/-! ### The wait (R147) -/

/-- `k` reads that find the other level, then the read that is next in the queue. -/
theorem Lane.run_wait {me : Nat} {l : Lane} {o : InProgress} {awaited : Level} {N k : Nat} {rest : List PortCall}
    {a : DrdyAnswer} {ds : List DrdyAnswer} (ho : l.dev.op = some o) (hr : o.rest = .readDRDY awaited N :: rest)
    (h0 : l.dev.pollCount = 0) (hk : k < N)
    (ha : l.dev.env.drdyAnswers = List.replicate k (.level (otherLevel awaited)) ++ a :: ds) :
    Lane.run me (2 * k + 1) l = Lane.readDRDY me awaited N rest
      { l with
        dev := { l.dev with
          pollCount := k
          env := { l.dev.env with drdyAnswers := a :: ds, drawn := l.dev.env.drawn + k } }
        events := l.events ++ pollEvents (otherLevel awaited) k } := by
  rw [Lane.run_add, Lane.run_polls me awaited N rest (a :: ds) k l o ho hr (by omega) ha, h0, Nat.zero_add]
  exact Lane.next_readDRDY (by exact ho) hr

/-- Settles O28: in each clause the reads before the last find the other level, and the last one is what decides. -/
theorem waitPollsUpToItsBound : Obligations.WaitPollsUpToItsBound := by
  intro me l o awaited N rest ds ho hr h0 hN
  refine ⟨fun k hk ha => ?_, fun ha => ?_, fun k hk ha => ?_⟩
  · rw [Lane.run_wait ho hr h0 hk ha, Lane.readDRDY_awaited rfl]
    simp [Lane.record, Device.goto, Env.afterDRDY, ho, Nat.add_assoc]
  · obtain ⟨k, rfl⟩ := Nat.exists_eq_add_of_le' hN
    rw [List.replicate_succ', List.append_assoc, List.singleton_append] at ha
    rw [show 2 * (k + 1) - 1 = 2 * k + 1 by omega, Lane.run_wait ho hr h0 (Nat.lt_succ_self k) ha,
      Lane.readDRDY_timeout (by rfl) (otherLevel_ne awaited) (by rfl)]
    simp [Lane.record, Device.abort, Device.goto, Env.afterDRDY, ho, Nat.add_assoc]
  · rw [Lane.run_wait ho hr h0 hk ha, Lane.readDRDY_error rfl]
    simp [Lane.record, Device.abort, Device.goto, Env.afterDRDY, ho, Nat.add_assoc]

/-! ### The start of an operation -/

section
variable {s : State} {m : Device} (hm : s.devices[s.cur]? = some m) (ho : m.op = none)
include hm ho

theorem startInit_begins {r g : Byte} {e : RateEntry} (hf : m.fsm.acceptsInit = true)
    (hr : s.params.rates[r.toNat]? = some e) (hg : validGain s.params.chip g = true) :
    startInit r g s = .next (s.putDevice (m.begin (.init r g) (initPlan s.params r g e.drate))) := by
  rw [startInit, onDevice_eq hm]
  simp [ho, hf, rateAt, hr, hg, mapNext]

theorem startSetcfg_begins {r g : Byte} {e : RateEntry} (hf : m.fsm.operating = true)
    (hr : s.params.rates[r.toNat]? = some e) (hg : validGain s.params.chip g = true) :
    startSetcfg r g s = .next (s.putDevice (m.begin (.setcfg r g) (setcfgPlan r g e.drate))) := by
  rw [startSetcfg, onDevice_eq hm]
  simp [ho, hf, rateAt, hr, hg, mapNext]

theorem startRead_begins {p n : Nat} {r : Byte} {e : RateEntry} (hf : m.fsm.operating = true) (hc : m.cfgRate = some r)
    (hr : s.params.rates[r.toNat]? = some e) (hv : validChannels s.params.chip p n = true) :
    startRead p n s = .next (s.putDevice (m.begin (.read p n) (readPlan s.params.chip e.maxPolls p n))) := by
  rw [startRead, onDevice_eq hm]
  simp [ho, hf, rateAt, hc, hr, hv, mapNext]

omit ho in
/-- An operation begun while the bus is owned holds at its first call, which is an `Acquire`. -/
theorem finish_begin_held {j : Nat} (hj : s.busOwner = some j) (op : Operation) (rest : List PortCall) :
    (s.putDevice (m.begin op (.acquire :: rest))).finish = s.putDevice (m.begin op (.acquire :: rest)) :=
  have held := Lane.next_acquire_held (me := s.cur) (l := (s.putDevice (m.begin op (.acquire :: rest))).lane _)
    (m.begin_op op (.acquire :: rest)) rfl hj
  (portStep_finish_of_fixed (getElem?_putDevice hm _) held).2

end

/-- Settles O29: a held `Acquire` makes no event, and the plan of every operation begins with one. -/
theorem acquireHoldsWhileTheBusIsOwned : Obligations.AcquireHoldsWhileTheBusIsOwned := by
  intro s m j hm hj
  have operating (h : m.fsm = .configured ∨ m.fsm = .idle) : m.fsm.operating = true := by
    obtain h | h := h <;> rw [h] <;> rfl
  refine ⟨fun o rest ho hr => portStep_finish_of_fixed hm (Lane.next_acquire_held ho hr hj),
    fun r g e ho hr hg => ⟨fun hf => ?_, fun hf => ?_⟩, fun p n r e ho hf hc hr hp hn => ⟨?_, ?_⟩⟩
  · have accepts : m.fsm.acceptsInit = true := by
      obtain h | h | h := hf <;> rw [h] <;> rfl
    exact (congrArg (mapNext State.finish) (startInit_begins hm ho accepts hr hg)).trans
      (congrArg Host.Outcome.next (finish_begin_held hm hj _ _))
  · exact (congrArg (mapNext State.finish) (startSetcfg_begins hm ho (operating hf) hr hg)).trans
      (congrArg Host.Outcome.next (finish_begin_held hm hj _ _))
  · exact (congrArg (mapNext State.finish)
      (startRead_begins hm ho (operating hf) hc hr (Bool.and_eq_true_iff.2 ⟨hp, hn⟩))).trans
      (congrArg Host.Outcome.next (finish_begin_held hm hj _ _))
  · rintro rfl
    rfl

end Sys2Proof.Machine
end

section
/-! The whole turn of a sequencer operation as turns of one event (R40): each of them is one port event, where a frame that
is due decodes to the instruction that sends it. -/

namespace Sys2Proof.Machine

/-! ### Frames that run as instructions -/

/-- The bytes decode to an instruction that sends them. -/
def SendsFrame (cp : ChipParams) (tx : List Byte) : Prop :=
  ∃ i, decodeChip cp tx = .ok i ∧ ∀ s : State, s.params.chip = cp → exec i s = sendFrame tx s

section
variable {cp : ChipParams} (hp : cp.legal = true)
include hp

theorem sendsFrame_drate (v : Byte) : SendsFrame cp (wregFrame drateReg v) :=
  ⟨_, decodeChip_drate cp hp v, fun _ _ => rfl⟩

theorem sendsFrame_adcon (v : Byte) : SendsFrame cp (wregFrame adconReg v) :=
  ⟨_, decodeChip_adcon cp hp v, fun _ _ => rfl⟩

theorem sendsFrame_mux {p n : Nat} (hc : validChannels cp p n = true) :
    SendsFrame cp (wregFrame muxReg (muxByte p n)) := by
  refine ⟨_, decodeChip_mux cp hp p n hc, fun s _ => ?_⟩
  obtain ⟨hcp, hcn⟩ := Bool.and_eq_true_iff.1 hc
  have frame : muxselFrame (BitVec.ofNat 4 p) (BitVec.ofNat 4 n) = wregFrame muxReg (muxByte p n) := by
    rw [muxselFrame, BitVec.toNat_ofNat, BitVec.toNat_ofNat, Nat.mod_eq_of_lt (channel_lt cp hp p hcp),
      Nat.mod_eq_of_lt (channel_lt cp hp n hcn)]
  exact congrArg (sendFrame · s) frame

theorem sendsFrame_wakeup : SendsFrame cp (wakeupFrame cp) :=
  ⟨_, decodeChip_wakeupFrame cp hp, fun s hs => congrArg (fun cp => sendFrame (wakeupFrame cp) s) hs⟩

omit hp

theorem sendsFrame_sync : SendsFrame cp syncFrame := ⟨_, decodeChip_syncFrame cp, fun _ _ => rfl⟩

theorem sendsFrame_rdata : SendsFrame cp rdataFrame := ⟨_, decodeChip_rdataFrame cp, fun _ _ => rfl⟩

theorem sendsFrame_dataread : SendsFrame cp (datareadFrame cp) :=
  ⟨_, decodeChip_datareadFrame cp, fun s hs => congrArg (fun cp => sendFrame (datareadFrame cp) s) hs⟩

end

/-- Every frame that is left of the operation in progress runs as an instruction. -/
def Device.FramesRun (cp : ChipParams) (m : Device) : Prop :=
  ∀ o, m.op = some o → ∀ tx eff, .transfer tx eff ∈ o.rest → SendsFrame cp tx

theorem Answers.framesRun {ps : Params} {m m' : Device} (hp : ps.chip.legal = true) (ho : m.op = none)
    (h : Answers ps m m') : m'.FramesRun ps.chip := by
  intro o ho' tx eff htx
  cases h with
  | respond frame => exact nomatch ho.symm.trans ho'
  | init _ _ _ =>
    cases ho'
    simp only [initPlan, resetPulse, writeConfig, List.mem_append, List.mem_cons, List.not_mem_nil, or_false,
      reduceCtorEq, false_or, PortCall.transfer.injEq] at htx
    obtain ⟨rfl, -⟩ | ⟨rfl, -⟩ := htx
    · exact sendsFrame_drate hp _
    · exact sendsFrame_adcon hp _
  | setcfg _ _ _ _ =>
    cases ho'
    simp only [setcfgPlan, writeConfig, List.mem_append, List.mem_cons, List.not_mem_nil, or_false,
      reduceCtorEq, false_or, PortCall.transfer.injEq] at htx
    obtain ⟨rfl, -⟩ | ⟨rfl, -⟩ := htx
    · exact sendsFrame_drate hp _
    · exact sendsFrame_adcon hp _
  | read polls _ _ _ hc =>
    cases ho'
    simp only [readPlan, List.mem_cons, List.not_mem_nil, or_false, reduceCtorEq, false_or,
      PortCall.transfer.injEq] at htx
    obtain ⟨rfl, -⟩ | ⟨rfl, -⟩ | ⟨rfl, -⟩ | ⟨rfl, -⟩ | ⟨rfl, -⟩ := htx
    · exact sendsFrame_mux hp hc
    · exact sendsFrame_sync
    · exact sendsFrame_wakeup hp
    · exact sendsFrame_rdata
    · exact sendsFrame_dataread

theorem PortCall.Step.transfer_mem {n : Nat} {call : PortCall} {rest rest' : List PortCall} {e : Event} {eff : Effect}
    (hs : call.Step n rest e rest' eff) {tx : List Byte} {eff' : Effect} (h : .transfer tx eff' ∈ rest') :
    .transfer tx eff' ∈ call :: rest := by
  cases hs <;> simp_all

theorem Lane.release_op (me : Nat) (o : InProgress) (st : Status) (l : Lane) : (l.release me o st).dev.op = none := by
  cases st <;> simp [Lane.release, Device.conclude]

theorem Lane.next_framesRun {cp : ChipParams} (me : Nat) {l : Lane} (h : l.dev.FramesRun cp) :
    (l.next me).dev.FramesRun cp := by
  cases ho : l.dev.op with
  | none => rwa [Lane.next_idle ho]
  | some o =>
    cases hr : o.rest with
    | nil => rwa [Lane.next_nil ho hr]
    | cons call rest =>
      obtain ⟨-, -, hn⟩ | ⟨st, -, hn⟩ | ⟨-, e, rest', eff, f, rx, hs, hn⟩ := Lane.next_cases (me := me) ho hr
      · rwa [hn]
      · rw [hn]
        intro o' ho'
        rw [Lane.release_op] at ho'
        cases ho'
      · obtain ⟨d, hd⟩ := Device.advance_op e f rest' eff rx ho
        intro o' ho' tx eff' htx
        rw [hn] at ho'
        cases hd.symm.trans ho'
        exact h o ho tx eff' (hr ▸ hs.transfer_mem htx)

/-! ### Turns of one event -/

/-- The state with other turns to come and another count of steps. -/
def State.atTurns (ts : List Turn) (n : Nat) (s : State) : State := { s with turns := ts, ticks := n }

theorem portStep_atTurns (ts : List Turn) (n : Nat) (s : State) : (s.atTurns ts n).portStep = s.portStep.atTurns ts n := by
  cases h : s.devices[s.cur]? with
  | none => rw [portStep_of_none h, portStep_of_none (by exact h)]
  | some m => rw [portStep_eq h, portStep_eq (s := s.atTurns ts n) h]; rfl

theorem iterate_portStep_atTurns (ts : List Turn) (n k : Nat) (s : State) :
    State.portStep^[k] (s.atTurns ts n) = (State.portStep^[k] s).atTurns ts n :=
  Function.Commute.iterate_left (g := State.atTurns ts n) (portStep_atTurns ts n) k s

/-- A turn of one event makes the next port event of an operation in progress. -/
theorem step_event {s : State} {m : Device} {o : InProgress} {ts : List Turn} (hm : s.devices[s.cur]? = some m)
    (ho : m.op = some o) (hf : m.FramesRun s.params.chip) (n : Nat) :
    step (s.atTurns ({ agent := s.cur, grain := .event } :: ts) n) = .next (s.portStep.atTurns ts (n + 1)) := by
  rw [step_of_turns (s := s.atTurns _ n) rfl, ← portStep_atTurns]
  refine (runTurn_op (s := s.atTurns ts (n + 1)) hm ho .event).trans ?_
  cases hd : m.dueFrame with
  | none => exact continueOp_event hd
  | some tx =>
    obtain ⟨o', eff, rest, ho', hr⟩ := dueFrame_eq_some hd
    obtain ⟨i, hi, hexec⟩ := hf o' ho' tx eff (hr ▸ List.mem_cons_self)
    exact (continueOp_frame (s := s.atTurns ts (n + 1)) hd hi).trans
      ((hexec (s.atTurns ts (n + 1)) rfl).trans (sendFrame_due (s := s.atTurns ts (n + 1)) hm hd))

theorem portStep_cur (s : State) : s.portStep.cur = s.cur := by
  cases hm : s.devices[s.cur]? with
  | none => rw [portStep_of_none hm]
  | some m => rw [portStep_eq hm, State.withLane_cur]

theorem run_succ {s t : State} (h : step s = .next t) (k : Nat) :
    Host.Core.run Sys2Proof.core (k + 1) s = Host.Core.run Sys2Proof.core k t := by
  have core : Sys2Proof.core.step s = .next t := h
  simp only [Host.Core.run, core]

/-- `k` turns of one event for some `k`: as many as there are port events among `n` before the operation is over. -/
theorem run_events (n : Nat) (s : State) (hf : ∀ m, s.devices[s.cur]? = some m → m.FramesRun s.params.chip) :
    ∃ k, Host.Core.run Sys2Proof.core k (s.atTurns (List.replicate k { agent := s.cur, grain := .event }) s.ticks) =
      .next ((State.portStep^[n] s).atTurns [] (s.ticks + k)) := by
  induction n generalizing s with
  | zero => exact ⟨0, rfl⟩
  | succ n ih =>
    have stays (h : s.portStep = s) : ∃ k, Host.Core.run Sys2Proof.core k
        (s.atTurns (List.replicate k { agent := s.cur, grain := .event }) s.ticks) =
          .next ((State.portStep^[n + 1] s).atTurns [] (s.ticks + k)) :=
      ⟨0, by rw [Function.iterate_fixed h]; rfl⟩
    cases hm : s.devices[s.cur]? with
    | none => exact stays (portStep_of_none hm)
    | some m =>
      cases ho : m.op with
      | none => exact stays (portStep_of_idle hm ho)
      | some o =>
        have framesRun : ∀ x, s.portStep.devices[s.cur]? = some x → x.FramesRun s.portStep.params.chip := by
          rw [portStep_eq hm]
          intro x hx
          obtain rfl : ((s.lane m).next s.cur).dev = x := by simpa [cur_lt hm] using hx
          exact Lane.next_framesRun s.cur (hf m hm)
        obtain ⟨k, hk⟩ := ih (s.portStep.atTurns [] (s.ticks + 1)) (by rw [← portStep_cur] at framesRun; exact framesRun)
        have first := step_event (ts := List.replicate k { agent := s.cur, grain := .event }) hm ho (hf m hm) s.ticks
        refine ⟨k + 1, (run_succ first k).trans ?_⟩
        rw [iterate_portStep_atTurns, show (s.portStep.atTurns [] (s.ticks + 1)).cur = s.cur from portStep_cur s] at hk
        rw [Function.iterate_succ_apply, Nat.add_comm k, ← Nat.add_assoc]
        exact hk

/-- Settles O38: the run to the end of an operation is port events, and each of them is a turn. -/
theorem wholeTurnIsItsEventTurns : Obligations.WholeTurnIsItsEventTurns := by
  intro s s1 t r g p n hp i hi hbegin hexec
  have whole : exec i s = mapNext State.finish (beginOp i s) := by
    simp only [List.mem_cons, List.not_mem_nil, or_false] at hi
    obtain rfl | rfl | rfl | rfl := hi <;> rfl
  have begun : Begun s s1 := by
    simp only [List.mem_cons, List.not_mem_nil, or_false] at hi
    obtain rfl | rfl | rfl | rfl := hi
    · exact startInit_next hbegin
    · exact startSetcfg_next hbegin
    · exact startRead_next hbegin
    · exact startRead_next hbegin
  rw [whole, hbegin] at hexec
  obtain rfl : s1.finish = t := by simpa [mapNext] using hexec
  obtain ⟨m, m', hm, ho, ha, rfl⟩ := begun
  have here := getElem?_putDevice hm m'
  obtain ⟨k, hk⟩ := run_events m'.eventsLeft (s.putDevice m') fun x hx => by
    obtain rfl : m' = x := Option.some.inj (here.symm.trans hx)
    exact ha.framesRun hp ho
  exact ⟨k, hk.trans (by rw [finish_eq_iterate here]; rfl)⟩

end Sys2Proof.Machine
end

section
/-! What a run to the end of INIT or SETCFG leaves: the fuel of `finish` is enough, and where a configuration is cached the
trace shows it written to the chip (R34). -/

namespace Sys2Proof.Machine

/-! ### The run of an operation ends, or holds -/

/-- The most port events that a list of calls can take at a poll count of `c`, an abort's two among them (R147, R163). -/
def callsLeft : Nat → List PortCall → Nat
  | _, [] => 0
  | _, .release _ :: _ => 1
  | _, .cleanupCS :: rest => 1 + callsLeft 0 rest
  | c, .readDRDY _ n :: rest => 2 * (n - c) + 1 + max 2 (callsLeft 0 rest)
  | c, .pollSleep _ n :: rest => 2 * (n - c) + 2 + max 2 (callsLeft 0 rest)
  | _, _ :: rest => 1 + max 2 (callsLeft 0 rest)

theorem callsLeft_le_zero (c : Nat) (rest : List PortCall) : callsLeft c rest ≤ callsLeft 0 rest := by
  cases rest with
  | nil => exact le_rfl
  | cons call rest => cases call <;> simp only [callsLeft] <;> omega

theorem callsLeft_le_cost (c : Nat) (rest : List PortCall) : callsLeft c rest ≤ (rest.map PortCall.cost).sum + 2 := by
  refine (callsLeft_le_zero c rest).trans ?_
  induction rest with
  | nil => simp [callsLeft]
  | cons call rest ih => cases call <;> simp only [callsLeft, List.map_cons, List.sum_cons, PortCall.cost] <;> omega

/-- `callsLeft` of the operation in progress. -/
def Device.callsLeft (m : Device) : Nat :=
  match m.op with
  | none => 0
  | some o => Machine.callsLeft m.pollCount o.rest

theorem Device.callsLeft_le (m : Device) : m.callsLeft ≤ m.eventsLeft := by
  cases h : m.op with
  | none => simp [Device.callsLeft, Device.eventsLeft, h]
  | some o => simpa [Device.callsLeft, Device.eventsLeft, h] using callsLeft_le_cost m.pollCount o.rest

/-- Every event of an operation that goes on leaves fewer calls. -/
theorem PortCall.Step.callsLeft_lt {m : Device} {call : PortCall} {rest rest' : List PortCall} {e : Event} {eff : Effect}
    (hs : call.Step m.pollCount rest e rest' eff) (f : Bool) (rx : List Byte) :
    callsLeft (m.advance e f rest' eff rx).pollCount rest' < callsLeft m.pollCount (call :: rest) := by
  have le := callsLeft_le_zero (m.advance e f rest' eff rx).pollCount rest'
  cases hs with
  | again l l' n hl hn =>
    simp only [callsLeft, Device.advance, Device.observe, Device.applyEffect_nothing, Device.goto_pollCount]
    omega
  | pollSleep l n =>
    simp only [callsLeft, Device.advance, Device.observe, Device.applyEffect_nothing, Device.goto_pollCount]
    omega
  | _ =>
    simp only [callsLeft] at le ⊢
    omega

theorem Lane.next_callsLeft (me : Nat) (l : Lane) :
    l.next me = l ∨ (l.next me).dev.callsLeft < l.dev.callsLeft := by
  cases ho : l.dev.op with
  | none => exact .inl (Lane.next_idle ho)
  | some o =>
    cases hr : o.rest with
    | nil => exact .inl (Lane.next_nil ho hr)
    | cons call rest =>
      obtain ⟨-, -, hn⟩ | ⟨st, rfl, hn⟩ | ⟨-, e, rest', eff, f, rx, hs, hn⟩ := Lane.next_cases (me := me) ho hr
      · exact .inl hn
      · right
        rw [hn]
        simp [Device.callsLeft, Lane.release_op, ho, hr, callsLeft]
      · right
        obtain ⟨d, hd⟩ := Device.advance_op e f rest' eff rx ho
        rw [hn]
        simpa [Device.callsLeft, Lane.advance, hd, ho, hr] using hs.callsLeft_lt f rx

/-- A run with enough fuel comes to where no port event follows. -/
theorem Lane.run_stops (me : Nat) : ∀ (n : Nat) (l : Lane), l.dev.callsLeft ≤ n →
    (Lane.run me n l).next me = Lane.run me n l
  | n, l, h => by
    obtain hn | hn := l.next_callsLeft me
    · rwa [Lane.run_fixed hn]
    · cases n with
      | zero => omega
      | succ n =>
        rw [Lane.run_succ]
        exact Lane.run_stops me n (l.next me) (by omega)

/-- Where no port event follows, the operation is over or an `Acquire` holds. -/
theorem Lane.acquire_of_fixed {me : Nat} {l : Lane} (hn : l.next me = l) {o : InProgress} {call : PortCall}
    {rest : List PortCall} (ho : l.dev.op = some o) (hr : o.rest = call :: rest) :
    call = .acquire ∧ ∃ j, l.owner = some j := by
  obtain ⟨hcall, hj, -⟩ | ⟨st, -, hn'⟩ | ⟨-, e, rest', eff, f, rx, -, hn'⟩ := Lane.next_cases (me := me) ho hr
  · exact ⟨hcall, hj⟩
  · have ended := l.release_op me o st
    rw [← hn', hn, ho] at ended
    cases ended
  · have events := congrArg Lane.events (hn.symm.trans hn')
    simp [Lane.advance] at events

/-! ### What the chip and the cache hold -/

/-- The DRATE and ADCON registers as the trace shows them, and the cached rate and gain. -/
structure Held where
  drate : Option Byte
  adcon : Option Byte
  rate : Option Byte
  gain : Option Byte

/-- What the trace and the record show. -/
def heldBy (cp : ChipParams) (events : List Event) (m : Device) : Held :=
  { drate := chipReg cp drateReg events, adcon := chipReg cp adconReg events, rate := m.cfgRate, gain := m.cfgGain }

/-- What one more event shows chip register `r` to hold. -/
def chipNext (cp : ChipParams) (r : Nibble) (known : Option Byte) (e : Event) : Option Byte :=
  match e with
  | .xfer tx (.rx _) =>
    match decodeChip cp tx with
    | .ok (.wreg r' v) => if r' = r then some v else known
    | .ok (.muxsel p n) => if muxReg = r then some (muxByte p.toNat n.toNat) else known
    | _ => known
  | .xfer _ .transportError => none
  | .rst _ _ => none
  | _ => known

theorem chipReg_concat (cp : ChipParams) (r : Nibble) (events : List Event) (e : Event) :
    chipReg cp r (events ++ [e]) = chipNext cp r (chipReg cp r events) e := by
  rw [chipReg, List.foldl_append]
  rfl

/-- After an event that writes `eff`. -/
def Held.after (cp : ChipParams) (h : Held) (e : Event) (eff : Effect) : Held :=
  { drate := chipNext cp drateReg h.drate e
    adcon := chipNext cp adconReg h.adcon e
    rate := match eff with | .commit r _ => some r | _ => h.rate
    gain := match eff with | .commit _ g => some g | _ => h.gain }

theorem heldBy_advance (cp : ChipParams) (events : List Event) (m : Device) (e : Event) (f : Bool) (rest : List PortCall)
    (eff : Effect) (rx : List Byte) :
    heldBy cp (events ++ [e]) (m.advance e f rest eff rx) = (heldBy cp events m).after cp e eff := by
  obtain ⟨_, _, _, _, _, he⟩ := m.observe_eq e
  simp only [heldBy, Held.after, chipReg_concat, Device.advance, he]
  cases eff <;> rfl

/-- If every call of the list succeeds, `goal` is held where it ends OK. -/
def leads (cp : ChipParams) (goal : Held) : Held → List PortCall → Prop
  | _, [] => False
  | h, .release st :: _ => st ≠ .ok ∨ h = goal
  | h, call :: rest => leads cp goal (h.after cp call.success call.effect) rest

theorem PortCall.Step.leads {cp : ChipParams} {goal h : Held} {n : Nat} {call : PortCall} {rest rest' : List PortCall}
    {e : Event} {eff : Effect} (hs : call.Step n rest e rest' eff) (hl : leads cp goal h (call :: rest)) :
    leads cp goal (h.after cp e eff) rest' := by
  have aborts (st : Status) (hst : st ≠ .ok) (h : Held) : Machine.leads cp goal h [.cleanupCS, .release st] := .inl hst
  cases hs with
  | setCSError l eff => exact aborts .gpioError nofun _
  | setRSTError l => exact aborts .gpioError nofun _
  | transferError tx eff => exact aborts .transportError nofun _
  | timeout l l' n hl => exact aborts .timeout nofun _
  | readError l n => exact aborts .gpioError nofun _
  | cleanupCS r => cases r <;> exact hl
  | _ => exact hl

theorem PortCall.Step.acquire_not_mem {n : Nat} {call : PortCall} {rest rest' : List PortCall} {e : Event} {eff : Effect}
    (hs : call.Step n rest e rest' eff) (h : .acquire ∉ rest) : .acquire ∉ rest' := by
  cases hs <;> simp [h]

/-- An INIT or SETCFG that, with the events `past` before it, leads to `goal` or to no cache; its one `Acquire` is free. -/
def Lane.Configures (cp : ChipParams) (past : List Event) (goal : Held) (l : Lane) : Prop :=
  match l.dev.op with
  | none => l.dev.cfgRate = none ∨ heldBy cp (past ++ l.events) l.dev = goal
  | some o => (∀ p n, o.operation ≠ .read p n) ∧ leads cp goal (heldBy cp (past ++ l.events) l.dev) o.rest ∧
      (.acquire ∈ o.rest → l.owner = none ∧ .acquire ∉ o.rest.tail)

theorem Lane.release_configures {cp : ChipParams} {past : List Event} {goal : Held} {l : Lane} {o : InProgress}
    (me : Nat) {st : Status} (hop : ∀ p n, o.operation ≠ .read p n)
    (h : st ≠ .ok ∨ heldBy cp (past ++ l.events) l.dev = goal) : (l.release me o st).Configures cp past goal := by
  rw [Lane.Configures, l.release_op me o st]
  by_cases hst : st = .ok
  · subst hst
    right
    rw [← h.resolve_left (fun h => h rfl)]
    simp only [heldBy, Lane.release, ← List.append_assoc, chipReg_concat]
    rfl
  · left
    rw [Lane.release, Device.conclude_error _ _ hst]
    cases ho : o.operation with
    | read p n => exact absurd ho (hop p n)
    | _ => rfl

theorem Lane.next_configures {cp : ChipParams} {past : List Event} {goal : Held} {l : Lane} (me : Nat)
    (h : l.Configures cp past goal) : (l.next me).Configures cp past goal := by
  cases ho : l.dev.op with
  | none => rwa [Lane.next_idle ho]
  | some o =>
    cases hr : o.rest with
    | nil => rwa [Lane.next_nil ho hr]
    | cons call rest =>
      have now := h
      rw [Lane.Configures, ho] at now
      obtain ⟨hop, hleads, hacq⟩ := now
      rw [hr] at hleads hacq
      obtain ⟨-, -, hn⟩ | ⟨st, rfl, hn⟩ | ⟨-, e, rest', eff, f, rx, hs, hn⟩ := Lane.next_cases (me := me) ho hr
      · rwa [hn]
      · rw [hn]
        exact Lane.release_configures me hop hleads
      · obtain ⟨d, hd⟩ := Device.advance_op e f rest' eff rx ho
        have tail : .acquire ∉ rest := fun hmem => (hacq (List.mem_cons_of_mem call hmem)).2 hmem
        rw [hn, Lane.Configures, Lane.advance, hd, ← List.append_assoc, heldBy_advance]
        exact ⟨hop, hs.leads hleads, fun hmem => absurd hmem (hs.acquire_not_mem tail)⟩

/-- Run to its end on a free bus, it leaves `goal` or no cache. -/
theorem finish_configures {cp : ChipParams} {goal : Held} {s : State} {m m' : Device} (hm : s.devices[s.cur]? = some m)
    (h : (s.lane m).Configures cp (traceOf s.cur s.trace) goal) (hm' : s.finish.devices[s.cur]? = some m') :
    m'.cfgRate = none ∨ heldBy cp (traceOf s.cur s.finish.trace) m' = goal := by
  have run := Lane.run_keeps (P := Lane.Configures cp (traceOf s.cur s.trace) goal)
    (fun _ => Lane.next_configures s.cur) m.eventsLeft (s.lane m) h
  have stops := Lane.run_stops s.cur m.eventsLeft (s.lane m) m.callsLeft_le
  rw [finish_eq hm] at hm' ⊢
  generalize Lane.run s.cur m.eventsLeft (s.lane m) = l at *
  obtain rfl : l.dev = m' := by simpa [cur_lt hm] using hm'
  rw [State.withLane_trace, traceOf_append, traceOf_self]
  cases ho : l.dev.op with
  | none => simpa only [Lane.Configures, ho] using run
  | some o =>
    rw [Lane.Configures, ho] at run
    obtain ⟨-, hleads, hacq⟩ := run
    cases hr : o.rest with
    | nil => simp [hr, leads] at hleads
    | cons call rest =>
      obtain ⟨rfl, j, hj⟩ := Lane.acquire_of_fixed stops ho hr
      have free := (hacq (hr ▸ List.mem_cons_self)).1
      exact nomatch hj.symm.trans free

/-- The configuration of `r` and `g`, cached and written to the chip. -/
def configured (r g : Byte) (e : RateEntry) : Held :=
  { drate := some e.drate, adcon := some g, rate := some r, gain := some g }

theorem drate_ne_adcon : drateReg ≠ adconReg := by decide

section
variable {ps : Params} (hp : ps.chip.legal = true) (r g : Byte) (e : RateEntry) (h : Held)
include hp

theorem leads_initPlan : leads ps.chip (configured r g e) h (initPlan ps r g e.drate) := by
  simp [initPlan, resetPulse, writeConfig, leads, Held.after, PortCall.success, PortCall.effect, chipNext,
    decodeChip_drate _ hp, decodeChip_adcon _ hp, configured, drate_ne_adcon, drate_ne_adcon.symm]

theorem leads_setcfgPlan : leads ps.chip (configured r g e) h (setcfgPlan r g e.drate) := by
  simp [setcfgPlan, writeConfig, leads, Held.after, PortCall.success, PortCall.effect, chipNext,
    decodeChip_drate _ hp, decodeChip_adcon _ hp, configured, drate_ne_adcon, drate_ne_adcon.symm]

end

section
variable {s t : State} {m m' : Device} {r g : Byte} {e : RateEntry} (hm : s.devices[s.cur]? = some m) (ho : m.op = none)
  (hr : s.params.rates[r.toNat]? = some e) (hg : validGain s.params.chip g = true)
include hm ho hr hg

theorem eq_of_startInit (h : startInit r g s = .next t) :
    t = s.putDevice (m.begin (.init r g) (initPlan s.params r g e.drate)) := by
  by_cases hf : m.fsm.acceptsInit = true
  · exact (Host.Outcome.next.inj ((startInit_begins hm ho hf hr hg).symm.trans h)).symm
  · simp [startInit, onDevice_eq hm, ho, hf, mapNext] at h

theorem eq_of_startSetcfg (h : startSetcfg r g s = .next t) :
    t = s.putDevice (m.begin (.setcfg r g) (setcfgPlan r g e.drate)) := by
  by_cases hf : m.fsm.operating = true
  · exact (Host.Outcome.next.inj ((startSetcfg_begins hm ho hf hr hg).symm.trans h)).symm
  · simp [startSetcfg, onDevice_eq hm, ho, hf, mapNext] at h

omit ho hr hg in
/-- An operation that is no READ, begun on a free bus and run to its end. -/
theorem finish_begin_configures {op : Operation} {plan : List PortCall} (hop : ∀ p n, op ≠ .read p n)
    (hacq : .acquire ∉ plan.tail) (hfree : s.busOwner = none) {goal : Held} {cp : ChipParams}
    (hleads : ∀ h, leads cp goal h plan) (hm' : (s.putDevice (m.begin op plan)).finish.devices[s.cur]? = some m') :
    m'.cfgRate = none ∨ heldBy cp (traceOf s.cur (s.putDevice (m.begin op plan)).finish.trace) m' = goal :=
  finish_configures (s := s.putDevice (m.begin op plan)) (getElem?_putDevice hm _)
    ⟨hop, hleads _, fun _ => ⟨hfree, hacq⟩⟩ hm'

end

/-- Settles O23: the plan of either operation leads to the configuration held, and an abort clears the cache. -/
theorem cachedConfigurationWasWritten : Obligations.CachedConfigurationWasWritten := by
  intro s t m m' r g e hm ho hp hr hg hfree i hi hexec hm' hcached
  have held : m'.cfgRate = none ∨ heldBy s.params.chip (traceOf s.cur t.trace) m' = configured r g e := by
    simp only [List.mem_cons, List.not_mem_nil, or_false] at hi
    obtain rfl | rfl := hi
    · obtain ⟨u, hu, rfl⟩ := mapNext_next hexec
      obtain rfl := eq_of_startInit hm ho hr hg hu
      exact finish_begin_configures hm (by simp) (by simp [initPlan, resetPulse, writeConfig]) hfree
        (leads_initPlan hp r g e) hm'
    · obtain ⟨u, hu, rfl⟩ := mapNext_next hexec
      obtain rfl := eq_of_startSetcfg hm ho hr hg hu
      exact finish_begin_configures hm (by simp) (by simp [setcfgPlan, writeConfig]) hfree (leads_setcfgPlan hp r g e) hm'
  obtain hnone | held := held
  · simp [hnone] at hcached
  · exact ⟨congrArg Held.rate held, congrArg Held.gain held, congrArg Held.drate held, congrArg Held.adcon held⟩

end Sys2Proof.Machine
end

section
/-! The order of the bus trace: while a device owns the bus, no event is another's (R73, R75). -/

namespace Sys2Proof.Machine

theorem busNext_acq {owner owner' : Option Nat} {i : Nat} (h : busNext owner (i, .acq) = some owner') :
    owner' = some i := by
  cases owner with
  | none => exact (Option.some.inj h).symm
  | some j => simp [busNext] at h

/-- On an owned bus an event is the owner's, and its `Rel` alone ends the ownership. -/
theorem busNext_owned {owner' : Option Nat} {i : Nat} {p : Nat × Event} (h : busNext (some i) p = some owner') :
    p.1 = i ∧ (p ≠ (i, .rel) → owner' = some i) := by
  obtain ⟨j, e⟩ := p
  obtain rfl : j = i := by
    by_contra hj
    cases e <;> simp [busNext, hj] at h
  refine ⟨rfl, fun hrel => ?_⟩
  have hacq : e ≠ .acq := by
    rintro rfl
    simp [busNext] at h
  exact Option.some.inj (h.symm.trans (busNext_owner j hacq fun he => hrel (he ▸ rfl)))

theorem foldlM_busNext_owned {i : Nat} {b : List (Nat × Event)} {owner' : Option Nat} (hrel : (i, Event.rel) ∉ b)
    (h : b.foldlM busNext (some i) = some owner') : owner' = some i := by
  induction b with
  | nil => exact (Option.some.inj h).symm
  | cons p b ih =>
    obtain ⟨next, hnext, hrest⟩ := Option.bind_eq_some_iff.1 (List.foldlM_cons.symm.trans h)
    obtain rfl := (busNext_owned hnext).2 (List.ne_of_not_mem_cons hrel).symm
    exact ih (List.not_mem_of_not_mem_cons hrel) hrest

/-- Settles O47: the bus monitor accepts the trace, so the `Acq` makes `i` the owner, every event up to its `Rel` leaves it
so, and the next event is the owner's. -/
theorem operationsNeverInterleave : Obligations.OperationsNeverInterleave := by
  rintro s i j a b c e ⟨-, -, -, -, hbus⟩ htrace hrel
  rw [busRun, htrace, List.foldlM_append, List.foldlM_append] at hbus
  obtain ⟨atEvent, hbefore, hafter⟩ := Option.bind_eq_some_iff.1 hbus
  obtain ⟨atAcq, -, hfromAcq⟩ := Option.bind_eq_some_iff.1 hbefore
  obtain ⟨acquired, hacq, hb⟩ := Option.bind_eq_some_iff.1 (List.foldlM_cons.symm.trans hfromAcq)
  obtain rfl := busNext_acq hacq
  obtain rfl := foldlM_busNext_owned hrel hb
  obtain ⟨next, hnext, -⟩ := Option.bind_eq_some_iff.1 (List.foldlM_cons.symm.trans hafter)
  exact (busNext_owned hnext).1

end Sys2Proof.Machine
end

section
/-! The encodings read back: what the words of an instruction decode to, and that no other bytes decode. -/

namespace Sys2Proof.Machine

/-! ### Numbers and their bytes -/

theorem join32_bytes (c : Code32) :
    join32 (c.extractLsb' 24 8) (c.extractLsb' 16 8) (c.extractLsb' 8 8) (c.extractLsb' 0 8) = c := by
  simp only [join32, BitVec.extractLsb'_append_extractLsb'_eq_extractLsb']
  exact BitVec.extractLsb'_eq_self

theorem toNat_append_byte {w : Nat} (x : BitVec w) (b : Byte) : (x ++ b).toNat = 256 * x.toNat + b.toNat := by
  rw [BitVec.toNat_append, ← Nat.shiftLeft_add_eq_or_of_lt b.isLt, Nat.shiftLeft_eq, Nat.mul_comm]

theorem toNat_join32 (b0 b1 b2 b3 : Byte) : (join32 b0 b1 b2 b3).toNat = joinNat [b0, b1, b2, b3] := by
  simp [join32, toNat_append_byte, joinNat]

theorem toNat_join64 (b0 b1 b2 b3 b4 b5 b6 b7 : Byte) :
    (join64 b0 b1 b2 b3 b4 b5 b6 b7).toNat = joinNat [b0, b1, b2, b3, b4, b5, b6, b7] := by
  simp [join64, toNat_append_byte, joinNat]

theorem bytesOf32_eq (c : Code32) : bytesOf32 c = bytesOfNat 4 c.toNat := by
  simp [bytesOf32, bytesOfNat, ← BitVec.toNat_inj, Nat.shiftRight_eq_div_pow]

theorem bytesOf64_eq (x : F64) : bytesOf64 x = bytesOfNat 8 x.toNat := by
  simp [bytesOf64, bytesOfNat, ← BitVec.toNat_inj, Nat.shiftRight_eq_div_pow]

theorem joinNat_cons (b : Byte) (bytes : List Byte) :
    joinNat (b :: bytes) = b.toNat * 256 ^ bytes.length + joinNat bytes := by
  have go (acc : Nat) : bytes.foldl (fun acc b => 256 * acc + b.toNat) acc =
      acc * 256 ^ bytes.length + joinNat bytes := by
    rw [joinNat]
    induction bytes generalizing acc with
    | nil => simp
    | cons b bytes ih =>
      rw [List.foldl_cons, List.foldl_cons, ih, ih (256 * 0 + b.toNat), List.length_cons]
      ring
  rw [joinNat, List.foldl_cons, go]
  simp

theorem joinNat_lt (bytes : List Byte) : joinNat bytes < 256 ^ bytes.length := by
  induction bytes with
  | nil => simp [joinNat]
  | cons b bytes ih =>
    rw [joinNat_cons, List.length_cons, Nat.pow_succ]
    nlinarith [b.isLt]

/-- What stands above the lowest `k` bytes of a number has no part in them. -/
theorem bytesOfNat_add (k x a : Nat) : bytesOfNat k (a * 256 ^ k + x) = bytesOfNat k x := by
  induction k generalizing a with
  | zero => rfl
  | succ k ih =>
    have split : a * 256 ^ (k + 1) + x = a * 256 * 256 ^ k + x := by ring
    simp only [bytesOfNat, split, ih, List.cons.injEq, and_true, ← BitVec.toNat_inj, BitVec.toNat_ofNat]
    rw [Nat.add_comm, Nat.add_mul_div_right _ _ (by positivity)]
    omega

theorem bytesOfNat_joinNat {k : Nat} {bytes : List Byte} (h : bytes.length = k) :
    bytesOfNat k (joinNat bytes) = bytes := by
  subst h
  induction bytes with
  | nil => rfl
  | cons b bytes ih =>
    have head : (b.toNat * 256 ^ bytes.length + joinNat bytes) / 256 ^ bytes.length = b.toNat := by
      rw [Nat.add_comm, Nat.add_mul_div_right _ _ (by positivity), Nat.div_eq_of_lt (joinNat_lt bytes), Nat.zero_add]
    rw [joinNat_cons, List.length_cons, bytesOfNat, head, bytesOfNat_add, ih, BitVec.ofNat_toNat, BitVec.setWidth_eq]

theorem bytesOf32_join32 (b0 b1 b2 b3 : Byte) : bytesOf32 (join32 b0 b1 b2 b3) = [b0, b1, b2, b3] := by
  rw [bytesOf32_eq, toNat_join32]
  exact bytesOfNat_joinNat rfl

theorem bytesOf64_join64 (b0 b1 b2 b3 b4 b5 b6 b7 : Byte) :
    bytesOf64 (join64 b0 b1 b2 b3 b4 b5 b6 b7) = [b0, b1, b2, b3, b4, b5, b6, b7] := by
  rw [bytesOf64_eq, toNat_join64]
  exact bytesOfNat_joinNat rfl

/-! ### The words of an instruction decode to it -/

section
variable {cp : ChipParams}

theorem chCom_lt (h : cp.legal = true) : cp.chCom < 2 ^ cp.chW := by
  obtain ⟨-, -, -, -, -, -, hcom, hw, hbytes, -⟩ := (legal_iff cp).1 h
  calc cp.chCom < 2 ^ 8 := by omega
    _ ≤ 2 ^ cp.chW := Nat.pow_le_pow_right (by decide) (by omega)

theorem decodeHost_of_operands {op : Byte} {operands : List Byte} {i : Instr}
    (h : decodeOperands cp op.toNat operands = some i) : decodeHost cp (op :: operands) = .ok i := by
  simp [decodeHost, h]

section
variable (h : cp.legal = true) {p n : Nat} (hp : p < 2 ^ cp.chW) (hn : n < 2 ^ cp.chW)
include h hp hn

theorem decodeHost_read : decodeHost cp (0x03#8 :: channelWords cp p n) =
    .ok (if n = cp.chCom then .readse p else .read p n) :=
  decodeHost_of_operands (congrArg (Option.map _) (splitChannels_channelWords cp h p n hp hn))

theorem decodeHost_encmux : decodeHost cp (0x07#8 :: channelWords cp p n) =
    .ok (if n = cp.chCom then .muxse p else .encmux p n) :=
  decodeHost_of_operands (congrArg (Option.map _) (splitChannels_channelWords cp h p n hp hn))

end

theorem decodeHost_volts (c : Code32) : decodeHost cp (0x04#8 :: bytesOf32 c) = .ok (.volts c) :=
  decodeHost_of_operands (congrArg (fun c => some (Instr.volts c)) (join32_bytes c))

theorem decodeHost_scale (c : Code32) (g : Byte) (vref : F64) :
    decodeHost cp (0x05#8 :: (bytesOf32 c ++ g :: bytesOf64 vref)) = .ok (.scale c g vref) :=
  decodeHost_of_operands (congrArg₂ (fun c v => some (Instr.scale c g v)) (join32_bytes c) (join64_bytes vref))

theorem decodeChip_wreg {r : Nibble} {v : Byte} (h : (Instr.wreg r v).wellFormed cp = true) :
    decodeChip cp (wregFrame r v) = .ok (.wreg r v) := by
  obtain ⟨hr, hmux⟩ := Bool.and_eq_true_iff.1 h
  have notMux : ¬(r = muxReg ∧ isMuxCode cp v = true) := by simpa [-not_and, not_and_or] using hmux
  rw [decodeChip_wregFrame, decodeWreg, if_neg (by simp), if_neg (Nat.not_lt.2 (of_decide_eq_true hr)), if_neg notMux]

theorem decodeChip_muxsel (h : cp.legal = true) {p n : Nibble} (hi : (Instr.muxsel p n).wellFormed cp = true) :
    decodeChip cp (muxselFrame p n) = .ok (.muxsel p n) := by
  simpa [muxselFrame] using decodeChip_mux cp h p.toNat n.toNat hi

/-- Settles O32: constructor by constructor; a channel operand survives the way to bytes and back, and the parameters
keep the WAKEUP frame and AINCOM apart from the rest. -/
theorem decodeOfEncode : Obligations.DecodeOfEncode := by
  intro cp i h hi
  cases i with
  | wreg r v => exact decodeChip_wreg hi
  | muxsel p n => exact decodeChip_muxsel h hi
  | sync => exact decodeChip_syncFrame cp
  | wakeup => exact decodeChip_wakeupFrame cp h
  | rdata => exact decodeChip_rdataFrame cp
  | dataread => exact decodeChip_datareadFrame cp
  | read p n =>
    simp only [Instr.wellFormed, Bool.and_eq_true, decide_eq_true_eq] at hi
    obtain ⟨⟨hp, hn⟩, hne⟩ := hi
    exact (decodeHost_read h hp hn).trans (by rw [if_neg hne])
  | encmux p n =>
    simp only [Instr.wellFormed, Bool.and_eq_true, decide_eq_true_eq] at hi
    obtain ⟨⟨hp, hn⟩, hne⟩ := hi
    exact (decodeHost_encmux h hp hn).trans (by rw [if_neg hne])
  | readse p => exact (decodeHost_read h (of_decide_eq_true hi) (chCom_lt h)).trans (by rw [if_pos rfl])
  | muxse p => exact (decodeHost_encmux h (of_decide_eq_true hi) (chCom_lt h)).trans (by rw [if_pos rfl])
  | volts c => exact decodeHost_volts (cp := cp) c
  | scale c g vref => exact decodeHost_scale (cp := cp) c g vref
  | _ => rfl

end

/-! ### Only words of instructions decode -/

/-- `bytes` are the words of `i`, a well-formed instruction of the layer. -/
def WordsOf (cp : ChipParams) (layer : Layer) (bytes : List Byte) (i : Instr) : Prop :=
  i.wellFormed cp = true ∧ i.layer = layer ∧ encode cp i = bytes

section
variable {cp : ChipParams}

/-- A byte with the WREG opcode in its high nibble is that opcode and a register (R82). -/
theorem wregOpcode_or {b : Byte} (h : b.extractLsb' 4 4 = 5#4) : wregOpcode ||| (b.extractLsb' 0 4).setWidth 8 = b := by
  revert b
  decide

theorem muxByte_nibbles_eq (v : Byte) : muxByte (v.extractLsb' 4 4).toNat (v.extractLsb' 0 4).toNat = v := by
  revert v
  decide

theorem decodeWreg_ok {r : Nibble} {count v : Byte} {i : Instr} (h : decodeWreg cp r count v = .ok i) :
    WordsOf cp .chip [wregOpcode ||| r.setWidth 8, count, v] i := by
  unfold decodeWreg at h
  split at h
  · cases h
  rename_i hcount
  obtain rfl : count = 0x00#8 := not_not.1 hcount
  split at h
  · cases h
  rename_i hr
  split at h
  · rename_i hmux
    obtain ⟨rfl, hv⟩ := hmux
    cases h
    exact ⟨hv, rfl, by rw [encode, muxselFrame, muxByte_nibbles_eq, wregFrame]⟩
  · rename_i hmux
    cases h
    refine ⟨?_, rfl, rfl⟩
    simpa [Instr.wellFormed, -not_and, not_and_or] using And.intro (Nat.not_lt.1 hr) hmux

theorem decodeChip_ok {bytes : List Byte} {i : Instr} (h : decodeChip cp bytes = .ok i) : WordsOf cp .chip bytes i := by
  unfold decodeChip at h
  split at h
  · cases h
  · rename_i b
    split at h
    · rename_i hb
      cases h
      exact ⟨rfl, rfl, hb ▸ rfl⟩
    split at h
    · rename_i hb
      cases h
      exact ⟨rfl, rfl, hb ▸ rfl⟩
    split at h
    · rename_i hb
      cases h
      exact ⟨rfl, rfl, hb ▸ rfl⟩
    split at h <;> cases h
  · rename_i b c v
    split at h
    · rename_i hfill
      obtain ⟨rfl, rfl, rfl⟩ := hfill
      cases h
      exact ⟨rfl, rfl, rfl⟩
    split at h
    · rename_i hb
      exact wregOpcode_or hb ▸ decodeWreg_ok h
    split at h <;> cases h
  · cases h

/-- `k` bytes that carry a channel operand hold a number of its width (R100). -/
theorem joinNat_lt_channel {bytes : List Byte} (h : bytes.length = cp.channelBytes) : joinNat bytes < 2 ^ cp.chW := by
  calc joinNat bytes < 256 ^ bytes.length := joinNat_lt bytes
    _ = 2 ^ (8 * cp.channelBytes) := by rw [h, Nat.pow_mul]
    _ ≤ 2 ^ cp.chW := Nat.pow_le_pow_right (by decide) (Nat.mul_div_le cp.chW 8)

theorem splitChannels_some {bytes : List Byte} {c : Nat × Nat} (h : splitChannels cp bytes = some c) :
    c.1 < 2 ^ cp.chW ∧ c.2 < 2 ^ cp.chW ∧ channelWords cp c.1 c.2 = bytes := by
  unfold splitChannels at h
  split at h
  · rename_i hlen
    cases h
    have htake : (bytes.take cp.channelBytes).length = cp.channelBytes := by rw [List.length_take]; omega
    have hdrop : (bytes.drop cp.channelBytes).length = cp.channelBytes := by rw [List.length_drop]; omega
    refine ⟨joinNat_lt_channel htake, joinNat_lt_channel hdrop, ?_⟩
    rw [channelWords, bytesOfNat_joinNat htake, bytesOfNat_joinNat hdrop, List.take_append_drop]
  · cases h

/-- The two rows of READ or of ENCMUX: AINCOM as the negative channel takes the narrower one (log entry 9). -/
theorem wordsOf_channels {op : Byte} {operands : List Byte} {i : Instr} {com : Nat → Instr} {two : Nat → Nat → Instr}
    (hcom : ∀ p < 2 ^ cp.chW, WordsOf cp .host (op :: channelWords cp p cp.chCom) (com p))
    (htwo : ∀ p < 2 ^ cp.chW, ∀ n < 2 ^ cp.chW, n ≠ cp.chCom → WordsOf cp .host (op :: channelWords cp p n) (two p n))
    (h : ((splitChannels cp operands).map fun c => if c.2 = cp.chCom then com c.1 else two c.1 c.2) = some i) :
    WordsOf cp .host (op :: operands) i := by
  obtain ⟨c, hc, rfl⟩ := Option.map_eq_some_iff.1 h
  obtain ⟨hp, hn, rfl⟩ := splitChannels_some hc
  split
  · rename_i hcom'
    exact hcom' ▸ hcom c.1 hp
  · rename_i hne
    exact htwo c.1 hp c.2 hn hne

theorem decodeOperands_some {op : Nat} {operands : List Byte} {i : Instr} (h : decodeOperands cp op operands = some i) :
    WordsOf cp .host (BitVec.ofNat 8 op :: operands) i := by
  match op, operands, h with
  | 0x01, [r, g], h => exact Option.some.inj h ▸ ⟨rfl, rfl, rfl⟩
  | 0x02, [r, g], h => exact Option.some.inj h ▸ ⟨rfl, rfl, rfl⟩
  | 0x03, channels, h =>
    exact wordsOf_channels (com := .readse) (two := .read) (fun p hp => ⟨decide_eq_true hp, rfl, rfl⟩)
      (fun p hp n hn hne => ⟨by simp [Instr.wellFormed, hp, hn, hne], rfl, rfl⟩) h
  | 0x04, [c0, c1, c2, c3], h =>
    exact Option.some.inj h ▸ ⟨rfl, rfl, congrArg (0x04#8 :: ·) (bytesOf32_join32 c0 c1 c2 c3)⟩
  | 0x05, [c0, c1, c2, c3, g, v0, v1, v2, v3, v4, v5, v6, v7], h =>
    exact Option.some.inj h ▸ ⟨rfl, rfl, by rw [encode, bytesOf32_join32, bytesOf64_join64]; rfl⟩
  | 0x06, [r, v], h => exact Option.some.inj h ▸ ⟨rfl, rfl, rfl⟩
  | 0x07, channels, h =>
    exact wordsOf_channels (com := .muxse) (two := .encmux) (fun p hp => ⟨decide_eq_true hp, rfl, rfl⟩)
      (fun p hp n hn hne => ⟨by simp [Instr.wellFormed, hp, hn, hne], rfl, rfl⟩) h
  | 0x08, [b0, b1, b2], h => exact Option.some.inj h ▸ ⟨rfl, rfl, rfl⟩
  | 0x09, [], h => exact Option.some.inj h ▸ ⟨rfl, rfl, rfl⟩
  | 0x0A, [], h => exact Option.some.inj h ▸ ⟨rfl, rfl, rfl⟩

theorem decodeHost_ok {bytes : List Byte} {i : Instr} (h : decodeHost cp bytes = .ok i) : WordsOf cp .host bytes i := by
  unfold decodeHost at h
  split at h
  · cases h
  rename_i op operands
  split at h
  · rename_i j hj
    cases h
    simpa using decodeOperands_some hj
  split at h
  · cases h
  · split at h <;> cases h

end

/-- Settles O33: branch by branch, what the decoder of a layer accepts is encoded back. -/
theorem encodeOfDecode : Obligations.EncodeOfDecode := by
  intro cp layer bytes i h
  cases layer with
  | chip => exact decodeChip_ok h
  | host => exact decodeHost_ok h

/-! ### The layers share no words -/

open Sys2Proof.Laws in
/-- The family `FrameLength`, for every instruction. -/
theorem frameLength (i : Instr) : FrameLength.Statement i := by
  cases i with
  | wreg r v => exact FrameLength.wreg r v
  | muxsel p n => exact FrameLength.muxsel p n
  | sync => exact FrameLength.sync
  | wakeup => exact FrameLength.wakeup
  | rdata => exact FrameLength.rdata
  | dataread => exact FrameLength.dataread
  | init r g => exact FrameLength.init r g
  | setcfg r g => exact FrameLength.setcfg r g
  | read p n => exact FrameLength.read p n
  | volts c => exact FrameLength.volts c
  | scale c g vref => exact FrameLength.scale c g vref
  | encwreg r v => exact FrameLength.encwreg r v
  | encmux p n => exact FrameLength.encmux p n
  | decode b0 b1 b2 => exact FrameLength.decode b0 b1 b2
  | encsyncwake => exact FrameLength.encsyncwake
  | encrdata => exact FrameLength.encrdata
  | readse p => exact FrameLength.readse p
  | muxse p => exact FrameLength.muxse p

/-- The assigned op bytes end at `0x0A` (R100). -/
theorem hostLength_of_gt {cp : ChipParams} {b : Byte} (h : 10 < b.toNat) : hostLength cp b = none := by
  unfold hostLength
  split
  case h_11 => rfl
  all_goals omega

theorem hostLength_wreg (cp : ChipParams) (r : Nibble) : hostLength cp (wregOpcode ||| r.setWidth 8) = none :=
  hostLength_of_gt ((by decide : ∀ r : Nibble, 10 < (wregOpcode ||| r.setWidth 8).toNat) r)

section
variable {cp : ChipParams} (hwakeup : hostLength cp cp.wakeupByte = none) (hfill : hostLength cp cp.fillByte = none)
include hwakeup hfill

/-- The first byte of a chip frame is an unassigned op byte, but that of RDATA, whose request would be longer. -/
theorem hostLength_chip {i : Instr} (hi : i.layer = .chip) {b : Byte} {rest : List Byte} (h : encode cp i = b :: rest) :
    hostLength cp b ≠ some (rest.length + 1) := by
  cases i with
  | wreg r v => cases h; simp [hostLength_wreg]
  | muxsel p n => cases h; simp [hostLength_wreg]
  | sync => cases h; nofun
  | wakeup => cases h; simp [hwakeup]
  | rdata => cases h; nofun
  | dataread => cases h; simp [hfill]
  | _ => cases hi

theorem encode_chip_ne_host {i j : Instr} (hi : i.layer = .chip) (hj : j.layer = .host) :
    encode cp i ≠ encode cp j := by
  intro heq
  obtain ⟨b, rest, hwords, hlength, -⟩ := frameLength j cp
  exact hostLength_chip hwakeup hfill hi (heq.trans hwords) (hlength hj)

theorem not_both_layers {bytes : List Byte} {i j : Instr} (hi : decodeChip cp bytes = .ok i)
    (hj : decodeHost cp bytes = .ok j) : False := by
  obtain ⟨-, hchip, hwords⟩ := decodeChip_ok hi
  obtain ⟨-, hhost, hwords'⟩ := decodeHost_ok hj
  exact encode_chip_ne_host hwakeup hfill hchip hhost (hwords.trans hwords'.symm)

end

/-- Settles O34: bytes that both layers accepted would be words of an instruction of each. -/
theorem layersShareNoFrame : Obligations.LayersShareNoFrame := by
  intro cp hwakeup hfill
  refine ⟨fun bytes i hi => ?_, fun bytes i hi => ?_⟩
  · cases hj : decodeHost cp bytes with
    | error e => exact ⟨e, rfl⟩
    | ok j => exact (not_both_layers hwakeup hfill hi hj).elim
  · cases hj : decodeChip cp bytes with
    | error e => exact ⟨e, rfl⟩
    | ok j => exact (not_both_layers hwakeup hfill hj hi).elim


end Sys2Proof.Machine
end

section
/-! The words of the tables, and the assembly examples, with the decided parameters. -/

namespace Sys2Proof.Machine

/-- Settles O8: the arms of the pseudo-operations are those of READ and ENCMUX with AINCOM. -/
theorem pseudoOperationsExpand : Obligations.PseudoOperationsExpand := fun _ _ _ => ⟨rfl, rfl, rfl, rfl⟩

open Sys2Proof.Tests in
/-- Settles O35: row by row, the decode tests. -/
theorem wordsOfTheTable : Obligations.WordsOfTheTable :=
  ⟨⟨test_decode_wreg, test_decode_muxsel, test_decode_sync, test_decode_wakeup, test_decode_rdata,
      test_decode_dataread⟩,
    test_decode_init, test_decode_setcfg, test_decode_read, test_decode_readse, test_decode_volts, test_decode_scale,
    test_decode_encwreg, test_decode_encmux, test_decode_muxse, test_decode_decode, test_decode_encsyncwake,
    test_decode_encrdata⟩

/-- Of the table of rates a rate operand reads the names alone. -/
theorem parseRate_congr {rates rates' : List RateEntry} (h : rates.map RateEntry.name = rates'.map RateEntry.name)
    (t : List Char) : parseRate rates t = parseRate rates' t := by
  have find (rest : List Char) : (rates.findIdx? fun e => decide (e.name.toList = rest)) =
      rates'.findIdx? fun e => decide (e.name.toList = rest) := by
    simpa [List.findIdx?_map, Function.comp_def] using
      congrArg (List.findIdx? fun name : String => decide (name.toList = rest)) h
  simp only [parseRate, find]

/-- Of the parameters a line of assembly reads those of the chip and the names of the rates. -/
theorem assemble_congr {ps ps' : Params} (hchip : ps.chip = ps'.chip)
    (hrates : ps.rates.map RateEntry.name = ps'.rates.map RateEntry.name) (line : List Char) :
    assemble ps line = assemble ps' line := by
  simp only [assemble, hchip, parseRate_congr hrates]

theorem name_rateEntries (polls : Nat → Nat) : (rateEntries polls).map RateEntry.name = rateCodes.map Prod.fst := by
  simp only [rateEntries, rateCodes, List.mapIdx_cons, List.mapIdx_nil, List.map_cons, List.map_nil]

/-- Settles O51: the lines are read as with the parameters of the tests, where they are computed. -/
theorem assemblyExamples : Obligations.AssemblyExamples := by
  rintro ps hchip ⟨polls, hrates⟩
  obtain ⟨hchip', polls', hrates'⟩ := Tests.witness_assembly
  have names : ps.rates.map RateEntry.name = Tests.params.rates.map RateEntry.name := by
    rw [hrates, hrates', name_rateEntries, name_rateEntries]
  simp only [assemble_congr (hchip.trans hchip'.symm) names]
  decide +kernel

end Sys2Proof.Machine
end

section
/-! The transfers of a trace: each is a frame of the block, in a window that a successful CS low opened (R81, R95, R99,
R141). -/

namespace Sys2Proof.Machine

section
variable {cp : ChipParams} {μ μ' : Mon}

/-- A frame that the monitor lets be sent is one of the block's own (R81, R99). -/
theorem Phase.blockFrame_of_afterFrame {φ φ' : Phase} {tx : List Byte} (h : φ.afterFrame cp tx = some φ') :
    blockFrame cp tx = true := by
  unfold Phase.afterFrame at h
  unfold blockFrame
  cases hd : decodeChip cp tx with
  | error e => simp [hd] at h
  | ok i =>
    cases i with
    | wreg r v =>
      cases φ with
      | fresh =>
        simp only [hd, Option.ite_none_right_eq_some] at h
        simpa using h.1
      | _ => simp [hd] at h
    | muxsel p n => rfl
    | sync => rfl
    | wakeup => rfl
    | rdata => rfl
    | dataread => rfl
    | _ => simp [hd] at h

/-- The events of a chip-select window from the CS low that opened it: no other CS event, and no release (R141). -/
def OpenWindow (before : List Event) : Prop :=
  ∃ a b : List Event, before = a ++ .cs .low .ok :: b ∧ (∀ l r, .cs l r ∉ b) ∧ .rel ∉ b

theorem OpenWindow.concat {before : List Event} {e : Event} (h : OpenWindow before) (hcs : ∀ l r, e ≠ .cs l r)
    (hrel : e ≠ .rel) : OpenWindow (before ++ [e]) := by
  obtain ⟨a, b, rfl, hb, hb'⟩ := h
  refine ⟨a, b ++ [e], by simp, fun l r => ?_, ?_⟩
  · simpa [hb l r] using (hcs l r).symm
  · simpa [hb'] using hrel.symm

theorem Device.observe_csOut (m : Device) {e : Event} (h : ∀ l r, e ≠ .cs l r) : (m.observe e).csOut = m.csOut := by
  cases e with
  | cs l r => exact absurd rfl (h l r)
  | rst _ r => cases r <;> rfl
  | drdy r => cases r <;> rfl
  | _ => rfl

/-- The monitor sees a change of CS in CS events alone. -/
theorem Mon.next_low_eq {e : Event} (h : μ.next cp e = some μ') (hcs : ∀ l r, e ≠ .cs l r) : μ'.low = μ.low := by
  obtain ⟨-, -, low, -⟩ := Mon.next_some h
  have same (line : Line) (hline : μ.low = line.isLow) : μ'.low = μ.low := by
    rw [low { Device.constructed 0#64 with csOut := line } hline, Device.observe_csOut _ hcs, hline]
  cases hl : μ.low with
  | false => exact hl ▸ same .high hl
  | true => exact hl ▸ same .low hl

/-- An event that leaves CS low is the CS low itself, or one inside a window that was open before it. -/
theorem Mon.next_low {e : Event} (h : μ.next cp e = some μ') (hl : μ'.low = true) :
    e = .cs .low .ok ∨ (μ.low = true ∧ (∀ l r, e ≠ .cs l r) ∧ e ≠ .rel) := by
  cases e with
  | cs l r =>
    cases r with
    | ok =>
      obtain ⟨-, -, rfl⟩ := Mon.next_cs h
      exact .inl (by rw [of_decide_eq_true hl])
    | gpioError =>
      obtain ⟨-, -, rfl⟩ := Mon.next_cs (Mon.next_csError cp μ l ▸ h)
      cases hl
  | rel =>
    obtain ⟨-, hlow, -, rfl⟩ := Mon.next_rel h
    exact absurd hl (by simp [hlow])
  | _ => exact .inr ⟨(Mon.next_low_eq h nofun).symm.trans hl, nofun, nofun⟩

/-- Where the monitor has CS low, the trace ends in an open window. -/
theorem Mon.openWindow {events : List Event} (h : Mon.run cp events = some μ) (hl : μ.low = true) :
    OpenWindow events := by
  induction events using List.reverseRecOn generalizing μ with
  | nil =>
    cases h
    cases hl
  | append_singleton es e ih =>
    obtain ⟨ν, hν, he⟩ := Option.bind_eq_some_iff.1 (List.foldlM_append.symm.trans h)
    obtain rfl | ⟨hlow, hcs, hrel⟩ := Mon.next_low (by simpa using he) hl
    · exact ⟨es, [], rfl, by simp, by simp⟩
    · exact (ih hν hlow).concat hcs hrel

/-- Where an event stands in a trace that keeps the rules, the monitor has come to it and lets it happen. -/
theorem Mon.run_at {before after : List Event} {e : Event} (h : Mon.run cp (before ++ e :: after) = some μ) :
    ∃ ν ν', Mon.run cp before = some ν ∧ ν.next cp e = some ν' := by
  obtain ⟨ν, hν, hrest⟩ := Option.bind_eq_some_iff.1 (List.foldlM_append.symm.trans h)
  obtain ⟨ν', he, -⟩ := Option.bind_eq_some_iff.1 (List.foldlM_cons.symm.trans hrest)
  exact ⟨ν, ν', hν, he⟩

end

/-- Settles O46: the monitor lets a transfer happen only for a frame of the block, with CS low, and CS low goes back to
the event that opened the window. -/
theorem transfersAreBlockFramesInWindows : Obligations.TransfersAreBlockFramesInWindows := by
  rintro s i m before after tx res ⟨-, -, hdevices, -⟩ hm htrace
  obtain ⟨-, -, μ, hrun, -⟩ := (deviceOk_iff _ _ _).1 (hdevices i m hm)
  obtain ⟨ν, ν', hbefore, hxfer⟩ := Mon.run_at (htrace ▸ hrun)
  obtain ⟨-, hlow, -, -, φ, hφ, -⟩ := Mon.next_xfer hxfer
  exact ⟨Phase.blockFrame_of_afterFrame hφ, Mon.openWindow hbefore hlow⟩

end Sys2Proof.Machine
end

section
/-! The responses of a step: a step gives the host at most one response frame, with a status of R210 (R103). -/

namespace Sys2Proof.Machine

/-- A response frame: a status code, with a payload only where the status is OK (R103, R210). -/
def IsStatusFrame (frame : List Byte) : Prop :=
  ∃ (code : Byte) (payload : List Byte), frame = code :: payload ∧ code.toNat ≤ 4 ∧ (code ≠ 0#8 → payload = [])

theorem isStatusFrame_responseFrame (st : Status) (payload : List Byte) : IsStatusFrame (responseFrame st payload) := by
  cases st with
  | ok => exact ⟨_, _, rfl, by decide, fun h => absurd rfl h⟩
  | _ => exact ⟨_, _, rfl, by decide, fun _ => rfl⟩

/-- The host has got the responses `past`, and at most one since: the one that ended the operation. -/
def Device.RespondsOnce (past : List (List Byte)) (m : Device) : Prop :=
  m.env.responses = past ∨ (m.op = none ∧ ∃ frame, IsStatusFrame frame ∧ m.env.responses = past ++ [frame])

/-! ### A port event -/

theorem Device.advance_responses (m : Device) (e : Event) (f : Bool) (rest : List PortCall) (eff : Effect)
    (rx : List Byte) : (m.advance e f rest eff rx).env.responses = m.env.responses := by
  cases e with
  | cs _ r => cases r <;> simp [Device.advance, Device.observe]
  | rst _ r => cases r <;> simp [Device.advance, Device.observe]
  | drdy r => cases r <;> simp [Device.advance, Device.observe]
  | _ => simp [Device.advance, Device.observe]

theorem Device.conclude_responses (m : Device) (o : InProgress) (st : Status) :
    ∃ frame, IsStatusFrame frame ∧ (m.conclude o st).env.responses = m.env.responses ++ [frame] := by
  cases st with
  | ok => exact ⟨_, isStatusFrame_responseFrame .ok o.payload, rfl⟩
  | transportError => exact ⟨_, isStatusFrame_responseFrame .transportError [], by simp [Device.conclude]⟩
  | gpioError => exact ⟨_, isStatusFrame_responseFrame .gpioError [], by simp [Device.conclude]⟩
  | timeout => exact ⟨_, isStatusFrame_responseFrame .timeout [], by simp [Device.conclude]⟩
  | configError => exact ⟨_, isStatusFrame_responseFrame .configError [], by simp [Device.conclude]⟩

theorem Lane.next_respondsOnce {past : List (List Byte)} (me : Nat) {l : Lane} (h : l.dev.RespondsOnce past) :
    (l.next me).dev.RespondsOnce past := by
  obtain h | ⟨ho, h⟩ := h
  case inr => rw [Lane.next_idle ho]; exact .inr ⟨ho, h⟩
  cases ho : l.dev.op with
  | none => rw [Lane.next_idle ho]; exact .inl h
  | some o =>
    cases hr : o.rest with
    | nil => rw [Lane.next_nil ho hr]; exact .inl h
    | cons call rest =>
      obtain ⟨-, -, hn⟩ | ⟨st, -, hn⟩ | ⟨-, e, rest', eff, f, rx, -, hn⟩ := Lane.next_cases (me := me) ho hr
      · rw [hn]; exact .inl h
      · obtain ⟨frame, hframe, hresp⟩ := Device.conclude_responses { l.dev with holdsLock := false, op := none } o st
        rw [hn]
        exact .inr ⟨Lane.release_op me o st l, frame, hframe, hresp.trans (by rw [h])⟩
      · rw [hn]; exact .inl ((Device.advance_responses ..).trans h)

/-- What `RespondsOnce` says of the device whose turn it is. -/
def State.RespondsOnce (past : List (List Byte)) (s : State) : Prop :=
  ∃ m, s.devices[s.cur]? = some m ∧ m.RespondsOnce past

theorem State.RespondsOnce.portStep {past : List (List Byte)} (s : State) (h : s.RespondsOnce past) :
    s.portStep.RespondsOnce past := by
  obtain ⟨m, hm, h⟩ := h
  rw [portStep_eq hm]
  exact ⟨_, by simp [cur_lt hm], Lane.next_respondsOnce (l := s.lane m) s.cur h⟩

/-! ### An instruction -/

/-- The record with which a host request is answered by a response frame, or begun: `Answers` with the frame named, since
it leaves open what bytes a response is. -/
inductive Replies (m : Device) : Device → Prop
  | respond (st payload) : Replies m (m.respond (responseFrame st payload))
  | begin (o plan) : Replies m (m.begin o plan)

/-- `t` is `s` with such a record of the device whose turn it is. -/
def Replied (s t : State) : Prop := ∃ m m', s.devices[s.cur]? = some m ∧ Replies m m' ∧ t = s.putDevice m'

theorem onDevice_replied {s t : State} {f : Device → Host.Outcome Device Fault Refusal}
    (hf : ∀ m m', f m = .next m' → Replies m m') (h : onDevice s f = .next t) : Replied s t :=
  let ⟨m, m', hm, hm', ht⟩ := onDevice_next h
  ⟨m, m', hm, hf m m' hm', ht⟩

theorem startInit_replied {r g : Byte} {s t : State} (h : startInit r g s = .next t) : Replied s t := by
  refine onDevice_replied (fun m m' hf => ?_) h
  repeat' split at hf
  all_goals cases hf
  · exact .begin ..
  · exact .respond ..

theorem startSetcfg_replied {r g : Byte} {s t : State} (h : startSetcfg r g s = .next t) : Replied s t := by
  refine onDevice_replied (fun m m' hf => ?_) h
  repeat' split at hf
  all_goals cases hf
  · exact .begin ..
  · exact .respond ..

theorem startRead_replied {p n : Nat} {s t : State} (h : startRead p n s = .next t) : Replied s t := by
  refine onDevice_replied (fun m m' hf => ?_) h
  repeat' split at hf
  all_goals cases hf
  · exact .begin ..
  · exact .respond ..

theorem execVolts_replied {c : Code32} {s t : State} (h : execVolts c s = .next t) : Replied s t := by
  refine onDevice_replied (fun m m' hf => ?_) h
  repeat' split at hf
  all_goals cases hf
  · exact .respond ..
  · exact .respond ..

theorem reply_replied {st : Status} {payload : List Byte} {s t : State} (h : reply st payload s = .next t) :
    Replied s t :=
  onDevice_replied (fun m m' hf => by cases hf; exact .respond st payload) h

theorem replyResult_replied {payload : Option (List Byte)} {s t : State} (h : replyResult payload s = .next t) :
    Replied s t := by
  cases payload with
  | none => exact reply_replied h
  | some bytes => exact reply_replied h

theorem exec_of_chip {i : Instr} (hi : i.layer = .chip) (s : State) :
    exec i s = sendFrame (encode s.params.chip i) s := by
  cases i with
  | wreg | muxsel | sync | wakeup | rdata | dataread => rfl
  | _ => cases hi

theorem beginOp_replied {i : Instr} (hi : i.layer = .host) {s t : State} (h : beginOp i s = .next t) : Replied s t := by
  cases i with
  | init r g => exact startInit_replied h
  | setcfg r g => exact startSetcfg_replied h
  | read p n => exact startRead_replied h
  | readse p => exact startRead_replied h
  | volts c => exact execVolts_replied h
  | scale c g vref => exact replyResult_replied h
  | encwreg r v => exact replyResult_replied h
  | encmux p n => exact replyResult_replied h
  | muxse p => exact replyResult_replied h
  | decode b0 b1 b2 => exact reply_replied h
  | encsyncwake => exact reply_replied h
  | encrdata => exact reply_replied h
  | _ => cases hi

/-- A host operation is its beginning, and what is left of it where it has port events. -/
theorem exec_of_host {i : Instr} (hi : i.layer = .host) (s : State) :
    exec i s = beginOp i s ∨ exec i s = mapNext State.finish (beginOp i s) := by
  cases i with
  | init | setcfg | read | readse => exact .inr rfl
  | _ => exact .inl rfl

theorem Replies.respondsOnce {past : List (List Byte)} {m m' : Device} (h : Replies m m') (ho : m.op = none)
    (hr : m.env.responses = past) : m'.RespondsOnce past := by
  cases h with
  | respond st payload => exact .inr ⟨ho, _, isStatusFrame_responseFrame st payload, by simp [hr]⟩
  | begin o plan => exact .inl hr

section
variable {past : List (List Byte)} {s t : State} {m : Device} {i : Instr} (hm : s.devices[s.cur]? = some m)
  (ho : m.op = none) (hr : m.env.responses = past) (hi : i.layer = .host)
include hm ho hr hi

theorem beginOp_respondsOnce (h : beginOp i s = .next t) : t.RespondsOnce past := by
  obtain ⟨a, m', ha, hrep, rfl⟩ := beginOp_replied hi h
  obtain rfl : m = a := Option.some.inj (hm.symm.trans ha)
  exact ⟨m', getElem?_putDevice hm m', hrep.respondsOnce ho hr⟩

theorem exec_respondsOnce (h : exec i s = .next t) : t.RespondsOnce past := by
  obtain heq | heq := exec_of_host hi s
  · exact beginOp_respondsOnce hm ho hr hi (heq ▸ h)
  · obtain ⟨u, hu, rfl⟩ := mapNext_next (heq ▸ h)
    exact finish_keeps State.RespondsOnce.portStep (beginOp_respondsOnce hm ho hr hi hu)

end

/-! ### A step -/

/-- Only a turn without an operation in progress serves a request; with one, a frame is a port event. -/
theorem step_respondsOnce {s t : State} {m : Device} (h : step s = .next t) (hm : s.devices[s.turn.agent]? = some m) :
    t.RespondsOnce m.env.responses := by
  obtain ⟨a, ha, hcases⟩ := step_next h
  obtain rfl : m = a := Option.some.inj (hm.symm.trans ha)
  have start : s.takeTurn.RespondsOnce m.env.responses := ⟨m, hm, .inl rfl⟩
  obtain ⟨-, rfl | rfl | ⟨tx, i, -, hi, hexec⟩⟩ | ⟨ho, ⟨-, rfl⟩ | ⟨bytes, more, i, -, hi, hrun⟩⟩ := hcases
  · exact finish_keeps State.RespondsOnce.portStep start
  · exact start.portStep
  · obtain ⟨-, hchip, -⟩ := decodeChip_ok hi
    obtain ⟨-, -, -, rfl⟩ := sendFrame_next (exec_of_chip hchip _ ▸ hexec)
    exact start.portStep
  · exact start
  · obtain ⟨-, hhost, -⟩ := decodeHost_ok hi
    have popped := getElem?_putDevice ha { m with env := { m.env with requests := m.env.requests.tail } }
    obtain hexec | hbegin := hrun
    · exact exec_respondsOnce popped ho rfl hhost hexec
    · exact beginOp_respondsOnce popped ho rfl hhost hbegin

/-- Settles O49: a response ends the operation, and no port event follows it in the step. -/
theorem responsesAreStatusFrames : Obligations.ResponsesAreStatusFrames := by
  intro s t m m' h hm hm'
  obtain ⟨_, -, l, -, rfl⟩ := step_onLane h
  obtain ⟨a, ha, hresp⟩ := step_respondsOnce h hm
  obtain rfl : m' = a := Option.some.inj (hm'.symm.trans ha)
  obtain hsame | ⟨-, frame, ⟨code, payload, rfl, hcode, hpayload⟩, hone⟩ := hresp
  · exact .inl hsame
  · exact .inr ⟨code, payload, hone, hcode, hpayload⟩

end Sys2Proof.Machine
end

section
/-! The codec operations: what each of them answers, the mux code, and the conversion code (40_codec.md). -/

namespace Sys2Proof.Machine

/-! ### The answers -/

section
variable {s : State} {m : Device} (h : s.devices[s.cur]? = some m)
include h

/-- An encoder that checks its operands answers with its bytes, or with `ConfigError`. -/
theorem replyResult_ite (legal : Prop) [Decidable legal] (bytes : List Byte) :
    replyResult (if legal then some bytes else none) s =
      .next (s.putDevice (m.respond (if legal then 0x00#8 :: bytes else [0x04#8]))) := by
  split
  · exact replyResult_some h bytes
  · exact replyResult_none h

theorem exec_encwreg (r v : Byte) :
    exec (.encwreg r v) s = .next (s.putDevice (m.respond
      (if validReg s.params.chip r = true then 0x00#8 :: wregFrame (r.setWidth 4) v else [0x04#8]))) :=
  replyResult_ite h _ _

theorem exec_encmux (p n : Nat) :
    exec (.encmux p n) s = .next (s.putDevice (m.respond
      (if isChannel s.params.chip p = true ∧ isChannel s.params.chip n = true then [0x00#8, muxByte p n]
       else [0x04#8]))) := by
  simp only [← Bool.and_eq_true]
  exact replyResult_ite h _ _

theorem exec_decode (b0 b1 b2 : Byte) :
    exec (.decode b0 b1 b2) s =
      .next (s.putDevice (m.respond (0x00#8 :: bytesOf32 (code32Of24 (u24 b0 b1 b2))))) :=
  reply_eq h .ok _

theorem exec_encsyncwake :
    exec .encsyncwake s = .next (s.putDevice (m.respond [0x00#8, 0xFC#8, s.params.chip.wakeupByte])) :=
  reply_eq h .ok _

theorem exec_encrdata : exec .encrdata s = .next (s.putDevice (m.respond [0x00#8, 0x01#8])) :=
  reply_eq h .ok _

/-- Whatever it checks, an encoder answers one frame. -/
theorem replyResult_responds (payload : Option (List Byte)) :
    ∃ frame, replyResult payload s = .next (s.putDevice (m.respond frame)) := by
  cases payload with
  | some bytes => exact ⟨_, replyResult_some h bytes⟩
  | none => exact ⟨_, replyResult_none h⟩

end

/-! ### ENCWREG -/

theorem setWidth_low_nibble {r : Byte} (h : r.toNat < 16) : (r.extractLsb' 0 4).setWidth 8 = r := by
  refine BitVec.eq_of_toNat_eq ?_
  simp only [BitVec.toNat_setWidth, BitVec.extractLsb'_toNat, Nat.shiftRight_zero]
  omega

theorem wregFrame_setWidth (r v : Byte) :
    wregFrame (r.setWidth 4) v = [0x50#8 ||| (r.extractLsb' 0 4).setWidth 8, 0x00#8, v] := by
  rw [BitVec.setWidth_eq_extractLsb' (by decide)]
  rfl

/-- Settles O1: with the decided parameters a legal register is its own low nibble. -/
theorem encwregReturnsTheFrame : Obligations.EncwregReturnsTheFrame := by
  intro s m r v h
  rw [exec_encwreg h, wregFrame_setWidth]
  refine ⟨by simp only [validReg, decide_eq_true_eq], fun decided => ?_⟩
  simp only [decided, validReg_default]
  split
  · rw [setWidth_low_nibble (by omega)]
  · rfl

/-! ### ENCMUX and MUXSE -/

/-- Settles O2: MUXSE is ENCMUX with AINCOM, which the decided parameters make channel 8. -/
theorem encmuxReturnsTheMuxByte : Obligations.EncmuxReturnsTheMuxByte := by
  intro s m p n h
  have muxse : exec (.muxse p) s = exec (.encmux p s.params.chip.chCom) s := rfl
  refine ⟨exec_encmux h p n, muxse, fun decided => ?_⟩
  have com : ChipParams.default.chCom = 8 := rfl
  rw [muxse, exec_encmux h, exec_encmux h]
  simp only [decided, isChannel_default, com, le_refl, and_true]
  exact ⟨rfl, rfl⟩

/-! ### The mux code -/

theorem toNat_muxByte {p n : Nat} (hp : p < 16) (hn : n < 16) : (muxByte p n).toNat = 16 * p + n := by
  have sum : (p <<< 4) ||| n = 16 * p + n := by
    rw [← Nat.shiftLeft_add_eq_or_of_lt hn, Nat.shiftLeft_eq, Nat.mul_comm]
  rw [muxByte, sum, BitVec.toNat_ofNat]
  omega

/-- Settles O6: a mux byte is `16·pos + neg` of two indices below 16, and division by 16 gives them back. -/
theorem muxCodeIsExact : Obligations.MuxCodeIsExact := by
  intro p n hp hn
  have value := toNat_muxByte (p := p) (n := n) (by omega) (by omega)
  obtain ⟨high, low⟩ := muxByte_nibbles p n (by omega) (by omega)
  refine ⟨value, ?_, ?_, fun p' n' hp' hn' same => ?_⟩
  · rw [high, BitVec.toNat_ofNat]
    omega
  · rw [low, BitVec.toNat_ofNat]
    omega
  · have value' := toNat_muxByte (p := p') (n := n') (by omega) (by omega)
    rw [same] at value'
    omega

/-! ### The conversion code -/

/-- Subtracting 2^24 where the top bit is set is reading in two's complement (R122). -/
theorem codeOf24_eq_toInt (u : Code24) : codeOf24 u = u.toInt := by
  rw [codeOf24, BitVec.toInt_eq_toNat_cond]
  split <;> split <;> omega

theorem code32Of24_eq_signExtend (u : Code24) : code32Of24 u = u.signExtend 32 := by
  rw [code32Of24, codeOf24_eq_toInt]
  rfl

theorem codeOfRx_bytesOf24 (u : Code24) : codeOfRx (bytesOf24 u) = some u := by
  simp only [codeOfRx, bytesOf24, u24, BitVec.extractLsb'_append_extractLsb'_eq_extractLsb']
  exact congrArg some BitVec.extractLsb'_eq_self

/-- Settles O3: the code that DECODE answers is the sign extension. -/
theorem decodeSignExtends : Obligations.DecodeSignExtends := by
  intro s m b0 b1 b2 h
  rw [exec_decode h, code32Of24_eq_signExtend]
  rfl

/-- Settles O7: a code of the range is the two's complement value of its 24-bit pattern, which sign extension keeps. -/
theorem conversionCodeRoundTrip : Obligations.ConversionCodeRoundTrip := by
  refine ⟨fun u => ⟨codeOfRx_bytesOf24 u, code32Of24_eq_signExtend u⟩, fun c lo hi => ?_⟩
  have value : (BitVec.ofInt 24 c).toInt = c := BitVec.toInt_ofInt_eq_self (by decide) lo hi
  refine ⟨codeOfRx_bytesOf24 _, (codeOf24_eq_toInt _).trans value, ?_⟩
  rw [code32Of24_eq_signExtend, BitVec.toInt_signExtend_of_le (by decide), value]

/-! ### The constant frames, and what no pure operation changes -/

/-- Settles O4: the frames are the constants of the encodings, and `WAKEUP_BYTE` is decided to be 0x00. -/
theorem fixedFramesAreReturned : Obligations.FixedFramesAreReturned := by
  intro s m h
  refine ⟨exec_encsyncwake h, exec_encrdata h, fun decided => ?_⟩
  rw [exec_encsyncwake h, decided]
  rfl

/-- Settles O5: each of the seven is a reply, and a reply appends one response to the record of the device. -/
theorem pureOperationsOnlyAnswer : Obligations.PureOperationsOnlyAnswer := by
  intro s m r v b0 b1 b2 g p n c x h i hi
  have responds : ∃ frame, exec i s = .next (s.putDevice (m.respond frame)) := by
    simp only [List.mem_cons, List.not_mem_nil, or_false] at hi
    rcases hi with rfl | rfl | rfl | rfl | rfl | rfl | rfl
    · exact replyResult_responds h _
    · exact replyResult_responds h _
    · exact replyResult_responds h _
    · exact ⟨_, exec_decode h b0 b1 b2⟩
    · exact ⟨_, exec_encsyncwake h⟩
    · exact ⟨_, exec_encrdata h⟩
    · exact replyResult_responds h _
  obtain ⟨frame, hframe⟩ := responds
  exact ⟨frame, hframe, rfl, rfl, rfl⟩

end Sys2Proof.Machine
end

section
/-! Runs of a sequencer operation in which every port call succeeds, or the wait runs out: what each successful call leaves,
and the operations as chains of them (41_sequencer.md). -/

namespace Sys2Proof.Machine

/-! ### Reaching a lane -/

/-- A run of port calls takes lane `l` to `l'`. -/
def Lane.Reaches (me : Nat) (l l' : Lane) : Prop := ∃ k, Lane.run me k l = l'

theorem Lane.Reaches.trans {me : Nat} {a b c : Lane} (h : a.Reaches me b) (h' : b.Reaches me c) : a.Reaches me c := by
  obtain ⟨j, rfl⟩ := h
  obtain ⟨k, rfl⟩ := h'
  exact ⟨j + k, Lane.run_add me j k a⟩

/-- Where a run of port calls ends the operation, the whole operation does so. -/
theorem Lane.Reaches.run_eventsLeft {me : Nat} {l l' : Lane} (h : l.Reaches me l') (ho : l'.dev.op = none) :
    Lane.run me l.dev.eventsLeft l = l' := by
  obtain ⟨k, rfl⟩ := h
  rw [← Lane.run_idle ho l.dev.eventsLeft, ← Lane.run_add, Nat.add_comm, Lane.run_add,
    Lane.run_fixed (Lane.run_stops me l.dev.eventsLeft l l.dev.callsLeft_le)]

theorem wregFrame_drate (v : Byte) : wregFrame drateReg v = [0x53#8, 0x00#8, v] := rfl

theorem wregFrame_adcon (v : Byte) : wregFrame adconReg v = [0x52#8, 0x00#8, v] := rfl

/-! ### The calls -/

section
variable {me : Nat} {l : Lane} {o : InProgress} {rest : List PortCall} (ho : l.dev.op = some o)
include ho

theorem Lane.reaches_acquired (hr : o.rest = .acquire :: rest) (hfree : l.owner = none) :
    l.Reaches me
      { dev := { l.dev with holdsLock := true, op := some { o with rest := rest } }
        owner := some me, events := l.events ++ [.acq] } := by
  refine ⟨1, ?_⟩
  rw [Lane.run_succ, Lane.run_zero, Lane.next_acquire ho hr, Lane.acquire_free hfree]
  simp [Device.goto, ho]

theorem Lane.reaches_setCS {lvl : Level} {eff : Effect} {css : List LineAnswer} (hr : o.rest = .setCS lvl eff :: rest)
    (hcs : l.dev.env.csAnswers = .ok :: css) :
    l.Reaches me
      { l with
        dev := ({ l.dev with
          csOut := lineOf lvl, op := some { o with rest := rest }
          env := { l.dev.env with csAnswers := css, drawn := l.dev.env.drawn + 1 } }).applyEffect eff []
        events := l.events ++ [.cs lvl .ok] } := by
  refine ⟨1, ?_⟩
  rw [Lane.run_succ, Lane.run_zero, Lane.next_setCS ho hr, Lane.setCS_ok (by simp [Env.csAnswer, hcs])]
  simp [Lane.record, Device.goto, Env.afterCS, ho, hcs]

theorem Lane.reaches_setRST {lvl : Level} {rsts : List LineAnswer} (hr : o.rest = .setRST lvl :: rest)
    (hrst : l.dev.env.rstAnswers = .ok :: rsts) :
    l.Reaches me
      { l with
        dev := { l.dev with
          rstOut := lineOf lvl, op := some { o with rest := rest }
          env := { l.dev.env with rstAnswers := rsts, drawn := l.dev.env.drawn + 1 } }
        events := l.events ++ [.rst lvl .ok] } := by
  refine ⟨1, ?_⟩
  rw [Lane.run_succ, Lane.run_zero, Lane.next_setRST ho hr, Lane.setRST_ok (by simp [Env.rstAnswer, hrst])]
  simp [Lane.record, Device.goto, Env.afterRST, ho, hrst]

theorem Lane.reaches_sleep {d : Duration} {eff : Effect} (hr : o.rest = .sleep d eff :: rest) :
    l.Reaches me
      { l with
        dev := ({ l.dev with op := some { o with rest := rest } }).applyEffect eff []
        events := l.events ++ [.sleep d] } := by
  refine ⟨1, ?_⟩
  rw [Lane.run_succ, Lane.run_zero, Lane.next_sleep ho hr]
  simp [Lane.sleep, Lane.record, Device.goto, ho]

theorem Lane.reaches_transfer {tx : List Byte} {eff : Effect} {b0 b1 b2 : Byte} {xs : List XferAnswer}
    (hr : o.rest = .transfer tx eff :: rest) (hx : l.dev.env.xferAnswers = .rx b0 b1 b2 :: xs) :
    l.Reaches me
      { l with
        dev := ({ l.dev with
          op := some { o with rest := rest }
          env := { l.dev.env with xferAnswers := xs, drawn := l.dev.env.drawn + 1 } }).applyEffect eff
            ([b0, b1, b2].take tx.length)
        events := l.events ++ [.xfer tx (.rx ([b0, b1, b2].take tx.length))] } := by
  have answer : l.dev.env.xferAnswer me = .rx b0 b1 b2 := by simp [Env.xferAnswer, hx]
  refine ⟨1, ?_⟩
  rw [Lane.run_succ, Lane.run_zero, Lane.next_transfer ho hr, Lane.transfer_rx answer]
  simp [Lane.record, Device.goto, Env.afterXfer, ho, hx]

theorem Lane.reaches_reset {css rsts : List LineAnswer} (hr : o.rest = resetPulse ++ rest)
    (hcs : l.dev.env.csAnswers = .ok :: css) (hrst : l.dev.env.rstAnswers = .ok :: .ok :: rsts) :
    l.Reaches me
      { l with
        dev := { l.dev with
          fsm := .reset, csOut := .high, rstOut := .high, pollCount := 0, op := some { o with rest := rest }
          env := { l.dev.env with csAnswers := css, rstAnswers := rsts, drawn := l.dev.env.drawn + 3 } }
        events := l.events ++
          [.cs .high .ok, .rst .low .ok, .sleep .tRst, .rst .high .ok, .sleep .tRst, .sleep .tPwrup] } := by
  have deselected := Lane.reaches_setCS (me := me) ho hr hcs
  have low := deselected.trans (Lane.reaches_setRST rfl rfl hrst)
  have lowHeld := low.trans (Lane.reaches_sleep rfl rfl)
  have high := lowHeld.trans (Lane.reaches_setRST rfl rfl rfl)
  have highHeld := high.trans (Lane.reaches_sleep rfl rfl)
  simpa [lineOf] using highHeld.trans (Lane.reaches_sleep rfl rfl)

theorem Lane.reaches_awaited {awaited : Level} {N k : Nat} {ds : List DrdyAnswer}
    (hr : o.rest = .readDRDY awaited N :: rest) (h0 : l.dev.pollCount = 0) (hk : k < N)
    (hd : l.dev.env.drdyAnswers = List.replicate k (.level (otherLevel awaited)) ++ .level awaited :: ds) :
    l.Reaches me
      { l with
        dev := { l.dev with
          pollCount := k + 1, op := some { o with rest := rest }
          env := { l.dev.env with drdyAnswers := ds, drawn := l.dev.env.drawn + (k + 1) } }
        events := l.events ++ pollEvents (otherLevel awaited) k ++ [.drdy (.level awaited)] } :=
  ⟨_, (waitPollsUpToItsBound me l o awaited N rest ds ho hr h0 (by omega)).1 k hk hd⟩

theorem Lane.reaches_timeout {awaited : Level} {N : Nat} {ds : List DrdyAnswer}
    (hr : o.rest = .readDRDY awaited N :: rest) (h0 : l.dev.pollCount = 0) (hN : 1 ≤ N)
    (hd : l.dev.env.drdyAnswers = List.replicate N (.level (otherLevel awaited)) ++ ds) :
    l.Reaches me
      { l with
        dev := { l.dev with
          pollCount := N, op := some { o with rest := [.cleanupCS, .release .timeout] }
          env := { l.dev.env with drdyAnswers := ds, drawn := l.dev.env.drawn + N } }
        events := l.events ++ pollEvents (otherLevel awaited) (N - 1) ++ [.drdy (.level (otherLevel awaited))] } :=
  ⟨_, (waitPollsUpToItsBound me l o awaited N rest ds ho hr h0 hN).2.1 hd⟩

theorem Lane.reaches_configured {r g drate a0 a1 a2 c0 c1 c2 : Byte} {css : List LineAnswer} {xs : List XferAnswer}
    (hr : o.rest = writeConfig r g drate ++ rest) (hcs : l.dev.env.csAnswers = .ok :: .ok :: css)
    (hx : l.dev.env.xferAnswers = .rx a0 a1 a2 :: .rx c0 c1 c2 :: xs) :
    l.Reaches me
      { l with
        dev := { l.dev with
          fsm := .configured, cfgRate := some r, cfgGain := some g, csOut := .high, op := some { o with rest := rest }
          env := { l.dev.env with csAnswers := css, xferAnswers := xs, drawn := l.dev.env.drawn + 4 } }
        events := l.events ++
          [.cs .low .ok, .xfer [0x53#8, 0x00#8, drate] (.rx [a0, a1, a2]), .xfer [0x52#8, 0x00#8, g] (.rx [c0, c1, c2]),
           .cs .high .ok] } := by
  have selected := Lane.reaches_setCS (me := me) ho hr hcs
  have rate := selected.trans (Lane.reaches_transfer rfl rfl hx)
  have gain := rate.trans (Lane.reaches_transfer rfl rfl rfl)
  simpa [wregFrame_drate, wregFrame_adcon, lineOf] using gain.trans (Lane.reaches_setCS rfl rfl rfl)

theorem Lane.reaches_released {st : Status} (hr : o.rest = .release st :: rest) (hown : l.owner = some me) :
    l.Reaches me
      { dev := { l.dev with holdsLock := false, op := none }.conclude o st
        owner := none, events := l.events ++ [.rel] } := by
  refine ⟨1, ?_⟩
  rw [Lane.run_succ, Lane.run_zero, Lane.next_release ho hr]
  simp [Lane.release, hown]

theorem Lane.reaches_cleaned {css : List LineAnswer} (hr : o.rest = .cleanupCS :: rest)
    (hcs : l.dev.env.csAnswers = .ok :: css) :
    l.Reaches me
      { l with
        dev := { l.dev with
          csOut := .high, op := some { o with rest := rest }
          env := { l.dev.env with csAnswers := css, drawn := l.dev.env.drawn + 1 } }
        events := l.events ++ [.cs .high .ok] } := by
  refine ⟨1, ?_⟩
  rw [Lane.run_succ, Lane.run_zero, Lane.next_cleanupCS ho hr, Lane.cleanupCS_ok (by simp [Env.csAnswer, hcs])]
  simp [Lane.record, Device.goto, Env.afterCS, ho, hcs]

end

/-! ### An operation begun on a free bus -/

/-- The lane after the operation in progress was run to its end, or to a hold. -/
def State.finalLane (s : State) (m : Device) : Lane := Lane.run s.cur m.eventsLeft (s.lane m)

theorem Fsm.acceptsInit_of {f : Fsm} (h : f = .uninitialized ∨ f = .configured ∨ f = .idle) : f.acceptsInit = true := by
  rcases h with rfl | rfl | rfl <;> rfl

theorem Fsm.operating_of {f : Fsm} (h : f = .configured ∨ f = .idle) : f.operating = true := by
  rcases h with rfl | rfl <;> rfl

section
variable {s : State} {m : Device} (hm : s.devices[s.cur]? = some m)
include hm

section
variable (ho : m.op = none)
include ho

theorem exec_init_begun {r g : Byte} {e : RateEntry}
    (hf : m.fsm = .uninitialized ∨ m.fsm = .configured ∨ m.fsm = .idle)
    (hr : s.params.rates[r.toNat]? = some e) (hg : validGain s.params.chip g = true) :
    exec (.init r g) s = .next (s.putDevice (m.begin (.init r g) (initPlan s.params r g e.drate))).finish :=
  congrArg (mapNext State.finish) (startInit_begins hm ho (Fsm.acceptsInit_of hf) hr hg)

theorem exec_setcfg_begun {r g : Byte} {e : RateEntry} (hf : m.fsm = .configured ∨ m.fsm = .idle)
    (hr : s.params.rates[r.toNat]? = some e) (hg : validGain s.params.chip g = true) :
    exec (.setcfg r g) s = .next (s.putDevice (m.begin (.setcfg r g) (setcfgPlan r g e.drate))).finish :=
  congrArg (mapNext State.finish) (startSetcfg_begins hm ho (Fsm.operating_of hf) hr hg)

theorem exec_read_begun {p n : Nat} {r : Byte} {e : RateEntry} (hf : m.fsm = .configured ∨ m.fsm = .idle)
    (hc : m.cfgRate = some r) (hr : s.params.rates[r.toNat]? = some e) (hp : isChannel s.params.chip p = true)
    (hn : isChannel s.params.chip n = true) :
    exec (.read p n) s = .next (s.putDevice (m.begin (.read p n) (readPlan s.params.chip e.maxPolls p n))).finish :=
  congrArg (mapNext State.finish) (startRead_begins hm ho (Fsm.operating_of hf) hc hr (Bool.and_eq_true_iff.2 ⟨hp, hn⟩))

end

theorem finish_putDevice (m' : Device) : (s.putDevice m').finish = s.withLane (s.finalLane m') := by
  rw [finish_eq (getElem?_putDevice hm m')]
  simp [State.withLane, State.finalLane, State.lane]

theorem finish_of_reaches {m' d : Device} {es : List Event} (hfree : s.busOwner = none)
    (h : (s.lane m').Reaches s.cur { dev := d, owner := none, events := es }) (ho : d.op = none) :
    (s.putDevice m').finish =
      { s with devices := s.devices.set s.cur d, trace := s.trace ++ es.map fun e => (s.cur, e) } := by
  have final : s.finalLane m' = { dev := d, owner := none, events := es } := h.run_eventsLeft ho
  rw [finish_putDevice hm, final, State.withLane, ← hfree]

end

theorem reaches_begun {s : State} {m : Device} {op : Operation} {rest : List PortCall} (hfree : s.busOwner = none) :
    (s.lane (m.begin op (.acquire :: rest))).Reaches s.cur
      { dev := { m with holdsLock := true, op := some { operation := op, rest := rest, data := none } }
        owner := some s.cur, events := [.acq] } :=
  Lane.reaches_acquired (l := s.lane (m.begin op (.acquire :: rest))) rfl rfl hfree

/-! ### The obligations about success and timeout -/

/-- Settles O16: acquire, reset pulse, wait, configuration and release, one after the other. -/
theorem initConfigures : Obligations.InitConfigures := by
  intro s m r g e k a0 a1 a2 c0 c1 c2 css rsts ds xs hm ho hf hr hg hfree hk hcs hrst hd hx
  have acquired : (s.lane (m.begin (.init r g) (initPlan s.params r g e.drate))).Reaches s.cur _ := reaches_begun hfree
  have reset := acquired.trans (Lane.reaches_reset rfl rfl hcs hrst)
  have awaited := reset.trans (Lane.reaches_awaited rfl rfl rfl hk hd)
  have written := awaited.trans (Lane.reaches_configured rfl rfl rfl hx)
  have released := written.trans (Lane.reaches_released rfl rfl rfl)
  rw [exec_init_begun hm ho hf hr hg, finish_of_reaches hm hfree released rfl]
  simp [Device.conclude_ok, Device.respond, InProgress.payload, initEvents, Nat.add_assoc, Nat.add_comm, Nat.add_left_comm]

/-- Settles O17: acquire, configuration and release, one after the other. -/
theorem setcfgReconfigures : Obligations.SetcfgReconfigures := by
  intro s m r g e a0 a1 a2 c0 c1 c2 css xs hm ho hf hr hg hfree hcs hx
  have acquired : (s.lane (m.begin (.setcfg r g) (setcfgPlan r g e.drate))).Reaches s.cur _ := reaches_begun hfree
  have written := acquired.trans (Lane.reaches_configured rfl rfl hcs hx)
  have released := written.trans (Lane.reaches_released rfl rfl rfl)
  rw [exec_setcfg_begun hm ho hf hr hg, finish_of_reaches hm hfree released rfl]
  rfl

/-- READ up to its wait. -/
theorem reaches_conversion {s : State} {m : Device} (p n polls : Nat) {x0 x1 x2 y0 y1 y2 z0 z1 z2 : Byte}
    {css : List LineAnswer} {xs : List XferAnswer} (hfree : s.busOwner = none) (hcs : m.env.csAnswers = .ok :: css)
    (hx : m.env.xferAnswers = .rx x0 x1 x2 :: .rx y0 y1 y2 :: .rx z0 z1 z2 :: xs) :
    (s.lane (m.begin (.read p n) (readPlan s.params.chip polls p n))).Reaches s.cur
      { dev := { m with
          fsm := .converting, csOut := .low, holdsLock := true, pollCount := 0
          op := some { operation := .read p n, rest := (readPlan s.params.chip polls p n).drop 6, data := none }
          env := { m.env with csAnswers := css, xferAnswers := xs, drawn := m.env.drawn + 4 } }
        owner := some s.cur
        events := readOpening s.params.chip p n [x0, x1, x2] [y0] [z0] } := by
  have acquired : (s.lane (m.begin (.read p n) (readPlan s.params.chip polls p n))).Reaches s.cur _ := reaches_begun hfree
  have selected := acquired.trans (Lane.reaches_setCS rfl rfl hcs)
  have muxed := selected.trans (Lane.reaches_transfer rfl rfl hx)
  have synced := muxed.trans (Lane.reaches_transfer rfl rfl rfl)
  have rested := synced.trans (Lane.reaches_sleep rfl rfl)
  have woken := rested.trans (Lane.reaches_transfer rfl rfl rfl)
  exact woken

/-- Settles O18: after the wait, RDATA, the data read and the release; READSE is READ with AINCOM. -/
theorem readReturnsTheCode : Obligations.ReadReturnsTheCode := by
  intro s m p n r e k x0 x1 x2 y0 y1 y2 z0 z1 z2 w0 w1 w2 b0 b1 b2 css ds xs hm ho hf hc hr hp hn hfree hk hcs hd hx
  have opened := reaches_conversion p n e.maxPolls hfree hcs hx
  have ready := opened.trans (Lane.reaches_awaited (awaited := .low) rfl rfl rfl hk hd)
  have asked := ready.trans (Lane.reaches_transfer rfl rfl rfl)
  have rested := asked.trans (Lane.reaches_sleep rfl rfl)
  have received := rested.trans (Lane.reaches_transfer rfl rfl rfl)
  have deselected := received.trans (Lane.reaches_setCS rfl rfl rfl)
  have released := deselected.trans (Lane.reaches_released rfl rfl rfl)
  refine ⟨?_, by rintro rfl; rfl⟩
  rw [exec_read_begun hm ho hf hc hr hp hn, finish_of_reaches hm hfree released rfl]
  simp [Device.conclude_ok, Device.respond, InProgress.payload, readEvents, datareadFrame, rdataFrame, rdataByte, codeOfRx,
    code32Of24_eq_signExtend, u24, lineOf, otherLevel, Nat.add_assoc, Nat.add_comm, Nat.add_left_comm]

/-- Settles O19: after the last read of the wait, the cleanup and the release of `Abort`. -/
theorem readTimesOut : Obligations.ReadTimesOut := by
  intro s m p n r e x0 x1 x2 y0 y1 y2 z0 z1 z2 css ds xs hm ho hf hc hr hp hn hfree hN hcs hd hx
  have opened := reaches_conversion p n e.maxPolls hfree hcs hx
  have timedOut := opened.trans (Lane.reaches_timeout (awaited := .low) rfl rfl rfl hN hd)
  have cleaned := timedOut.trans (Lane.reaches_cleaned rfl rfl rfl)
  have released := cleaned.trans (Lane.reaches_released rfl rfl rfl)
  rw [exec_read_begun hm ho hf hc hr hp hn, finish_of_reaches hm hfree released rfl]
  simp [Device.conclude, Device.afterAbort, responseFrame, Status.code, Device.respond, readTimeoutEvents, otherLevel,
    Nat.add_comm, Nat.add_left_comm]

/-! ### Chip frames out of place -/

theorem sendFrame_not_due {s : State} {m : Device} {tx : List Byte} (h : s.devices[s.cur]? = some m)
    (hd : m.dueFrame ≠ some tx) : sendFrame tx s = .refused .frameNotDue := by
  simp [sendFrame, h, hd]

/-- Settles O31: a chip frame's instruction sends its words, which are refused where they are not due. -/
theorem chipFramesAreSentNowhereElse : Obligations.ChipFramesAreSentNowhereElse := by
  intro s m i hm hi hd
  rw [exec_of_chip hi, sendFrame_not_due hm hd]

end Sys2Proof.Machine
end

section
/-! Every run of a sequencer operation, whatever the environment answers: how many port events it makes, the bracket of the
lock around them, and how it ends (41_sequencer.md R163, 60_exceptions.md R215 to R217). -/

namespace Sys2Proof.Machine

/-! ### Along a port event -/

/-- What a port event may lead to: nothing new, the end of the operation, or an event after which it goes on. -/
theorem Lane.next_induction {P : Lane → Prop} {me : Nat} {l : Lane} (h : P l)
    (release : ∀ o st rest, l.dev.op = some o → o.rest = .release st :: rest → P (l.release me o st))
    (advance : ∀ o call rest e rest' eff f rx, l.dev.op = some o → o.rest = call :: rest →
      call.Step l.dev.pollCount rest e rest' eff → l.next me = l.advance me e f rest' eff rx →
      P (l.advance me e f rest' eff rx)) : P (l.next me) := by
  cases ho : l.dev.op with
  | none => rwa [Lane.next_idle ho]
  | some o =>
    cases hr : o.rest with
    | nil => rwa [Lane.next_nil ho hr]
    | cons call rest =>
      obtain ⟨-, -, hn⟩ | ⟨st, rfl, hn⟩ | ⟨-, e, rest', eff, f, rx, hs, hn⟩ := Lane.next_cases (me := me) ho hr
      · rwa [hn]
      · exact hn ▸ release o st rest ho hr
      · exact hn ▸ advance o call rest e rest' eff f rx ho hr hs hn

/-! ### The number of events -/

/-- The most port events that a list of calls can take at a poll count of `c`. A wait of `N ≥ 1` reads takes `2·N - 1` at
most (R147), where the fuel `callsLeft` allows it two more. -/
def mostEvents : Nat → List PortCall → Nat
  | _, [] => 0
  | _, .release _ :: _ => 1
  | _, .cleanupCS :: rest => 1 + mostEvents 0 rest
  | c, .readDRDY _ n :: rest => 2 * (n - 1 - c) + 1 + max 2 (mostEvents 0 rest)
  | c, .pollSleep _ n :: rest => 2 * (n - 1 - c) + 2 + max 2 (mostEvents 0 rest)
  | _, _ :: rest => 1 + max 2 (mostEvents 0 rest)

theorem mostEvents_le_zero (c : Nat) (rest : List PortCall) : mostEvents c rest ≤ mostEvents 0 rest := by
  cases rest with
  | nil => exact le_rfl
  | cons call rest => cases call <;> simp only [mostEvents] <;> omega

/-- `mostEvents` of the operation in progress. -/
def Device.mostEvents (m : Device) : Nat :=
  match m.op with
  | none => 0
  | some o => Machine.mostEvents m.pollCount o.rest

theorem PortCall.Step.mostEvents_lt {m : Device} {call : PortCall} {rest rest' : List PortCall} {e : Event} {eff : Effect}
    (hs : call.Step m.pollCount rest e rest' eff) (f : Bool) (rx : List Byte) :
    mostEvents (m.advance e f rest' eff rx).pollCount rest' < mostEvents m.pollCount (call :: rest) := by
  have le := mostEvents_le_zero (m.advance e f rest' eff rx).pollCount rest'
  cases hs with
  | again l l' n hl hn =>
    have counted :
        (m.advance (.drdy (.level l')) f (.pollSleep l n :: rest) .nothing rx).pollCount = m.pollCount + 1 := rfl
    simp only [counted, mostEvents]
    omega
  | pollSleep l n =>
    have kept : (m.advance (.sleep .tPoll) f (.readDRDY l n :: rest) .nothing rx).pollCount = m.pollCount := rfl
    simp only [kept, mostEvents]
    omega
  | _ =>
    simp only [mostEvents] at le ⊢
    omega

/-- The events made and those that can follow never grow together (R163). -/
theorem Lane.next_length (me : Nat) (l : Lane) :
    (l.next me).events.length + (l.next me).dev.mostEvents ≤ l.events.length + l.dev.mostEvents := by
  refine Lane.next_induction (P := fun l' => l'.events.length + l'.dev.mostEvents ≤ l.events.length + l.dev.mostEvents)
    le_rfl (fun o st rest ho hr => ?_) (fun o call rest e rest' eff f rx ho hr hs _ => ?_)
  · have last : l.dev.mostEvents = 1 := by simp [Device.mostEvents, ho, hr, mostEvents]
    have ended : (l.release me o st).dev.mostEvents = 0 := by rw [Device.mostEvents, Lane.release_op]
    rw [last, ended]
    simp [Lane.release]
  · obtain ⟨d, hd⟩ := Device.advance_op e f rest' eff rx ho
    have lt := hs.mostEvents_lt f rx
    simp only [Lane.advance, Device.mostEvents, hd, ho, hr, List.length_append, List.length_singleton]
    omega

/-! ### The requests of the host -/

theorem Device.advance_requests (m : Device) (e : Event) (f : Bool) (rest : List PortCall) (eff : Effect)
    (rx : List Byte) : (m.advance e f rest eff rx).env.requests = m.env.requests := by
  cases e with
  | cs _ r => cases r <;> simp [Device.advance, Device.observe]
  | rst _ r => cases r <;> simp [Device.advance, Device.observe]
  | drdy r => cases r <;> simp [Device.advance, Device.observe]
  | _ => simp [Device.advance, Device.observe]

theorem Device.conclude_requests (m : Device) (o : InProgress) (st : Status) :
    (m.conclude o st).env.requests = m.env.requests := by
  cases st <;> simp [Device.conclude]

theorem Lane.next_requests (me : Nat) (l : Lane) : (l.next me).dev.env.requests = l.dev.env.requests :=
  Lane.next_induction (P := fun l' => l'.dev.env.requests = l.dev.env.requests) rfl
    (fun _ _ _ _ _ => Device.conclude_requests ..) (fun _ _ _ _ _ _ _ _ _ _ _ _ => Device.advance_requests ..)

/-! ### The bracket of the lock -/

/-- An operation of device `me` that takes a free bus as its first event, and gives it back as its last (R141). -/
def Lane.Brackets (me : Nat) (l : Lane) : Prop :=
  match l.dev.op with
  | none => l.owner = none ∧ l.dev.holdsLock = false ∧ l.events.head? = some .acq ∧ l.events.getLast? = some .rel
  | some o =>
    (l.owner = none ∧ l.events = [] ∧ ∃ rest, o.rest = .acquire :: rest ∧ .acquire ∉ rest) ∨
    (l.owner = some me ∧ l.events.head? = some .acq ∧ .acquire ∉ o.rest)

theorem Lane.next_brackets {me : Nat} {l : Lane} (h : l.Brackets me) : (l.next me).Brackets me := by
  refine Lane.next_induction h (fun o st rest ho hr => ?_) (fun o call rest e rest' eff f rx ho hr hs _ => ?_)
  · simp only [Lane.Brackets, ho, hr] at h
    obtain ⟨-, -, _, hr', -⟩ | ⟨hown, hhead, -⟩ := h
    · cases hr'
    · rw [Lane.Brackets, Lane.release_op]
      simp [Lane.release, hown, Device.conclude_holdsLock, List.head?_append, hhead]
  · obtain ⟨d, hd⟩ := Device.advance_op e f rest' eff rx ho
    simp only [Lane.Brackets, ho, hr] at h
    rw [Lane.Brackets, Lane.advance, hd]
    right
    obtain ⟨-, hev, _, hr', hacq⟩ | ⟨hown, hhead, hacq⟩ := h
    · cases hr'
      cases hs
      exact ⟨rfl, by simp [hev], hacq⟩
    · have hne : e ≠ .acq := fun he => hacq (hs.acq_iff.1 he ▸ List.mem_cons_self)
      exact ⟨by rw [ownerAfter_of_ne hne, hown], by simp [List.head?_append, hhead],
        hs.acquire_not_mem fun hmem => hacq (List.mem_cons_of_mem call hmem)⟩

/-! ### What an operation that ends OK shows -/

/-- The lines, `fsm` and the cache of a record. -/
structure View where
  fsm : Fsm
  rate : Option Byte
  gain : Option Byte
  cs : Line
  rst : Line

def Device.view (m : Device) : View :=
  { fsm := m.fsm, rate := m.cfgRate, gain := m.cfgGain, cs := m.csOut, rst := m.rstOut }

/-- After an event that writes `eff`. -/
def View.after (v : View) (e : Event) (eff : Effect) : View where
  fsm := (eff.track v.fsm v.rate.isSome).1
  rate := match eff with | .commit r _ => some r | _ => v.rate
  gain := match eff with | .commit _ g => some g | _ => v.gain
  cs := match e with | .cs l .ok => lineOf l | .cs _ .gpioError => .unknown | _ => v.cs
  rst := match e with | .rst l .ok => lineOf l | .rst _ .gpioError => .unknown | _ => v.rst

theorem Device.advance_view (m : Device) (e : Event) (f : Bool) (rest : List PortCall) (eff : Effect) (rx : List Byte) :
    (m.advance e f rest eff rx).view = m.view.after e eff := by
  cases e with
  | cs _ r => cases r <;> cases eff <;> rfl
  | rst _ r => cases r <;> cases eff <;> rfl
  | drdy r => cases r <;> cases eff <;> rfl
  | _ => cases eff <;> rfl

/-- The errors with which a call can fail (R211 to R213). -/
def PortCall.errors : PortCall → List Status
  | .acquire => []
  | .setCS _ _ => [.gpioError]
  | .setRST _ => [.gpioError]
  | .sleep _ _ => []
  | .transfer _ _ => [.transportError]
  | .readDRDY _ _ => [.gpioError, .timeout]
  | .pollSleep _ _ => [.gpioError, .timeout]
  | .cleanupCS => []
  | .release _ => []

/-- A list of calls that ends OK with CS high and `goal` shown if every call succeeds, and can fail with `errs` only. -/
def Meets (errs : List Status) (goal : View → Prop) : View → List PortCall → Prop
  | _, [] => False
  | _, .cleanupCS :: _ => False
  | v, .release st :: rest => st = .ok ∧ rest = [] ∧ v.cs = .high ∧ goal v
  | v, call :: rest => call.errors ⊆ errs ∧ Meets errs goal (v.after call.success call.effect) rest

section
variable {errs : List Status} {goal : View → Prop}

/-- Each event either goes on along the list, or is the failure that begins an abort. -/
theorem PortCall.Step.meets {c : Nat} {call : PortCall} {rest rest' : List PortCall} {e : Event} {eff : Effect} {v : View}
    (hs : call.Step c rest e rest' eff) (h : Meets errs goal v (call :: rest)) :
    Meets errs goal (v.after e eff) rest' ∨ ∃ st ∈ errs, rest' = [.cleanupCS, .release st] := by
  cases hs with
  | acquire => exact .inl h.2
  | setCS l eff => exact .inl h.2
  | setCSError l eff => exact .inr ⟨_, h.1 (by simp [PortCall.errors]), rfl⟩
  | setRST l => exact .inl h.2
  | setRSTError l => exact .inr ⟨_, h.1 (by simp [PortCall.errors]), rfl⟩
  | sleep d eff => exact .inl h.2
  | transfer tx rx eff => exact .inl h.2
  | transferError tx eff => exact .inr ⟨_, h.1 (by simp [PortCall.errors]), rfl⟩
  | seen l n => exact .inl h.2
  | again l l' n hl hn => exact .inl h
  | timeout l l' n hl => exact .inr ⟨_, h.1 (by simp [PortCall.errors]), rfl⟩
  | readError l n => exact .inr ⟨_, h.1 (by simp [PortCall.errors]), rfl⟩
  | pollSleep l n => exact .inl h
  | cleanupCS r => exact h.elim

end

/-! ### The calls of an operation -/

/-- What holds of the calls left of an operation, and of those of an abort, holds of the calls left after an event. -/
theorem PortCall.Step.forall_mem {calls : PortCall → Prop} (cleanup : calls .cleanupCS)
    (release : ∀ st, calls (.release st)) (wait : ∀ l n, calls (.readDRDY l n) ↔ calls (.pollSleep l n)) {c : Nat}
    {call : PortCall} {rest rest' : List PortCall} {e : Event} {eff : Effect} (hs : call.Step c rest e rest' eff)
    (h : ∀ x ∈ call :: rest, calls x) :
    ∀ x ∈ rest', calls x := by
  obtain ⟨hcall, hrest⟩ := List.forall_mem_cons.1 h
  have aborts (st : Status) : ∀ x ∈ [.cleanupCS, .release st], calls x := by simp [cleanup, release]
  cases hs with
  | again l l' n hl hn => exact List.forall_mem_cons.2 ⟨(wait l n).1 hcall, hrest⟩
  | pollSleep l n => exact List.forall_mem_cons.2 ⟨(wait l n).2 hcall, hrest⟩
  | setCSError | setRSTError | transferError | timeout | readError => exact aborts _
  | _ => exact hrest

/-- After an event the calls of an abort are left, or what was left after the call, perhaps with a wait before it. -/
theorem PortCall.Step.rest_cases {c : Nat} {call : PortCall} {rest rest' : List PortCall} {e : Event} {eff : Effect}
    (hs : call.Step c rest e rest' eff) :
    .release .ok ∉ rest' ∨ (rest ⊆ rest' ∧ (.release .ok ∈ rest' → .release .ok ∈ rest)) := by
  cases hs with
  | again l l' n hl hn => exact .inr ⟨List.subset_cons_self .., by simp⟩
  | pollSleep l n => exact .inr ⟨List.subset_cons_self .., by simp⟩
  | setCSError | setRSTError | transferError | timeout | readError => exact .inl (by simp)
  | _ => exact .inr ⟨List.Subset.refl _, id⟩

theorem PortCall.Step.effect_cases {c : Nat} {call : PortCall} {rest rest' : List PortCall} {e : Event} {eff : Effect}
    (hs : call.Step c rest e rest' eff) : eff = call.effect ∨ eff = .nothing := by
  cases hs <;> simp [PortCall.effect]

/-! ### The conversion code of a READ -/

/-- A call that takes received bytes for the conversion code is a transfer of three bytes. -/
def PortCall.KeepsCode (call : PortCall) : Prop :=
  call.effect = .keepData → ∃ tx, call = .transfer tx .keepData ∧ tx.length = 3

/-- The conversion code was received, or is to be received if the operation ends OK. -/
def InProgress.CodeDue (o : InProgress) : Prop :=
  o.data.isSome = true ∨ .release .ok ∉ o.rest ∨ ∃ tx, .transfer tx .keepData ∈ o.rest

theorem Device.advance_op_of_ne {m : Device} {o : InProgress} (ho : m.op = some o) (e : Event) (f : Bool)
    (rest : List PortCall) {eff : Effect} (hne : eff ≠ .keepData) (rx : List Byte) :
    (m.advance e f rest eff rx).op = some { o with rest := rest } := by
  obtain ⟨_, _, _, _, _, h⟩ := m.observe_eq e
  cases eff with
  | keepData => exact absurd rfl hne
  | _ => simp [Device.advance, h, ho]

section
variable {me : Nat} {l : Lane} {o : InProgress} {rest : List PortCall} (ho : l.dev.op = some o)
include ho

theorem Lane.next_keepData {tx : List Byte} (hr : o.rest = .transfer tx .keepData :: rest) (htx : tx.length = 3) :
    (∃ u, (l.next me).dev.op = some { o with rest := rest, data := some u }) ∨
    (l.next me).dev.op = some { o with rest := [.cleanupCS, .release .transportError] } := by
  rw [Lane.next_transfer ho hr]
  cases h : l.dev.env.xferAnswer me with
  | rx b0 b1 b2 => exact .inl ⟨u24 b0 b1 b2, by rw [Lane.transfer_rx h]; simp [htx, ho, codeOfRx]⟩
  | transportError => exact .inr (by rw [Lane.transfer_error h]; simp [ho])

/-- What is left of the operation after an event still has its code, or is to receive it. -/
theorem Lane.next_codeDue {call : PortCall} (hr : o.rest = call :: rest) (hk : call.KeepsCode) (h : o.CodeDue)
    {c : Nat} {rest' : List PortCall} {e : Event} {eff : Effect} (hs : call.Step c rest e rest' eff)
    {f : Bool} {rx : List Byte} (hn : l.next me = l.advance me e f rest' eff rx) :
    ∀ o', (l.next me).dev.op = some o' → o'.CodeDue := by
  by_cases hcall : call.effect = .keepData
  · obtain ⟨tx, rfl, htx⟩ := hk hcall
    intro o' ho'
    obtain ⟨u, hu⟩ | hu := Lane.next_keepData (me := me) ho hr htx
    · cases hu.symm.trans ho'
      exact .inl rfl
    · cases hu.symm.trans ho'
      exact .inr (.inl (by simp))
  · have hne : eff ≠ .keepData := by
      obtain rfl | rfl := hs.effect_cases
      · exact hcall
      · nofun
    intro o' ho'
    rw [hn] at ho'
    cases (Device.advance_op_of_ne ho e f rest' hne rx).symm.trans ho'
    obtain hnok | ⟨hsub, hok⟩ := hs.rest_cases
    · exact .inr (.inl hnok)
    · obtain hdata | hnok | ⟨tx, htx⟩ := h
      · exact .inl hdata
      · exact .inr (.inl fun hmem => hnok (hr ▸ List.mem_cons_of_mem call (hok hmem)))
      · obtain rfl | htx := List.mem_cons.1 (hr ▸ htx)
        · exact absurd rfl hcall
        · exact .inr (.inr ⟨tx, hsub htx⟩)

end

/-! ### The end -/

/-- CS is not low, and is high unless the cleanup failed (R141, R216). -/
def Device.Deselected (m : Device) : Prop := m.csOut ≠ .low ∧ (m.csFault = false → m.csOut = .high)

theorem Lane.next_cleanupCS_deselected {me : Nat} {l : Lane} {o : InProgress} {rest : List PortCall}
    (ho : l.dev.op = some o) (hr : o.rest = .cleanupCS :: rest) : (l.next me).dev.Deselected := by
  rw [Lane.next_cleanupCS ho hr]
  cases h : l.dev.env.csAnswer me with
  | ok => rw [Lane.cleanupCS_ok h]; exact ⟨nofun, fun _ => rfl⟩
  | gpioError => rw [Lane.cleanupCS_error h]; exact ⟨nofun, nofun⟩

/-- The payload with which an operation answers OK (R103): a READ's is a sign-extended conversion code. -/
def Operation.AnswersOk (op : Operation) (payload : List Byte) : Prop :=
  match op with
  | .init _ _ => payload = []
  | .setcfg _ _ => payload = []
  | .read _ _ => ∃ u : Code24, payload = bytesOf32 (u.signExtend 32)

theorem InProgress.payload_answersOk {o : InProgress} (h : ∀ p n, o.operation = .read p n → o.data.isSome = true) :
    o.operation.AnswersOk o.payload := by
  unfold InProgress.payload
  cases hop : o.operation with
  | init r g => rfl
  | setcfg r g => rfl
  | read p n =>
    obtain ⟨u, hu⟩ := Option.isSome_iff_exists.1 (h p n hop)
    exact ⟨u, by rw [hu, ← code32Of24_eq_signExtend]⟩

section
variable (past : List (List Byte)) (op : Operation) (errs : List Status) (goal : View → Prop)

/-- The record after an operation that had `past` as the responses before it: OK with `goal` shown, or an error of `errs`
and the state after an abort (R217). -/
def Device.Ended (m : Device) : Prop :=
  m.Deselected ∧
  ((goal m.view ∧ ∃ payload, op.AnswersOk payload ∧ m.env.responses = past ++ [0x00#8 :: payload]) ∨
   ∃ st ∈ errs, (∃ m₀ : Device, m.view = (m₀.afterAbort op).view) ∧ m.env.responses = past ++ [[st.code]])

/-- What is left of an operation: its own calls, or those of an abort. -/
def Device.OnCourse (m : Device) (rest : List PortCall) : Prop :=
  Meets errs goal m.view rest ∨
  ∃ st ∈ errs, rest = [.cleanupCS, .release st] ∨ (rest = [.release st] ∧ m.Deselected)

/-- The operation `op` is over and has `Ended`, or is on its way there. -/
def Lane.OnCourse (l : Lane) : Prop :=
  match l.dev.op with
  | none => l.dev.Ended past op errs goal
  | some o =>
    o.operation = op ∧ l.dev.env.responses = past ∧ l.dev.OnCourse errs goal o.rest ∧
      (∀ call ∈ o.rest, call.KeepsCode) ∧ (∀ p n, op = .read p n → o.CodeDue)

end

section
variable {past : List (List Byte)} {op : Operation} {errs : List Status} {goal : View → Prop}

theorem Device.deselected_of_high {m : Device} (h : m.csOut = .high) : m.Deselected :=
  ⟨by simp [h], fun _ => h⟩

theorem Lane.release_onCourse {me : Nat} {l : Lane} {o : InProgress} {st : Status} {rest : List PortCall}
    (hok : .ok ∉ errs) (ho : l.dev.op = some o) (hr : o.rest = .release st :: rest)
    (h : l.OnCourse past op errs goal) : (l.release me o st).OnCourse past op errs goal := by
  simp only [Lane.OnCourse, ho] at h
  obtain ⟨rfl, hresp, hcourse, -, hcode⟩ := h
  rw [Lane.OnCourse, Lane.release_op]
  rw [hr] at hcourse
  obtain ⟨rfl, rfl, hcs, hgoal⟩ | ⟨st', hst, hrest | ⟨hrest, hlow, hhigh⟩⟩ := hcourse
  · have received : ∀ p n, o.operation = .read p n → o.data.isSome = true := fun p n hp => by
      simpa [InProgress.CodeDue, hr] using hcode p n hp
    have response : (l.release me o .ok).dev.env.responses = past ++ [0x00#8 :: o.payload] := by rw [← hresp]; rfl
    exact ⟨Device.deselected_of_high hcs, .inl ⟨hgoal, _, InProgress.payload_answersOk received, response⟩⟩
  · cases hrest
  · cases hrest
    have hne : st ≠ .ok := fun h => hok (h ▸ hst)
    simp only [Lane.release, Device.conclude_error _ _ hne]
    refine ⟨?_, .inr ⟨st, hst, ⟨_, rfl⟩, ?_⟩⟩
    · simpa [Device.Deselected] using And.intro hlow hhigh
    · simp [hresp]

/-- Every port event keeps an operation on its course. -/
theorem Lane.next_onCourse {me : Nat} {l : Lane} (hok : .ok ∉ errs) (h : l.OnCourse past op errs goal) :
    (l.next me).OnCourse past op errs goal := by
  refine Lane.next_induction h (fun o st rest ho hr => Lane.release_onCourse hok ho hr h)
    (fun o call rest e rest' eff f rx ho hr hs hn => ?_)
  simp only [Lane.OnCourse, ho, hr] at h
  obtain ⟨hop, hresp, hcourse, hkeeps, hcode⟩ := h
  obtain ⟨d, hd⟩ := Device.advance_op e f rest' eff rx ho
  have codeDue := Lane.next_codeDue ho hr (hkeeps call List.mem_cons_self) (hs := hs) (hn := hn)
  rw [Lane.OnCourse, Lane.advance, hd]
  refine ⟨hop, (Device.advance_responses ..).trans hresp, ?_, ?_, fun p n hp => ?_⟩
  · obtain hmeets | ⟨st, hst, hrest | ⟨hrest, -⟩⟩ := hcourse
    · obtain hmeets | habort := hs.meets hmeets
      · exact .inl (Device.advance_view .. ▸ hmeets)
      · obtain ⟨st, hst, hrest⟩ := habort
        exact .inr ⟨st, hst, .inl hrest⟩
    · obtain ⟨rfl, rfl⟩ := List.cons.inj hrest
      have deselected := hn ▸ Lane.next_cleanupCS_deselected (me := me) ho hr
      cases hs
      exact .inr ⟨st, hst, .inr ⟨rfl, deselected⟩⟩
    · cases hrest
      cases hs
  · exact hs.forall_mem (by simp [PortCall.KeepsCode, PortCall.effect]) (by simp [PortCall.KeepsCode, PortCall.effect])
      (by simp [PortCall.KeepsCode, PortCall.effect]) hkeeps
  · exact codeDue (hcode p n hp) _ (by rw [hn]; exact hd)

end

/-! ### What no call of an operation changes -/

/-- `field` of the record is changed by no call of the kind `calls`, and not by the end of the operation `op`. -/
structure Untouched {α : Type} (op : Operation) (calls : PortCall → Prop) (field : Device → α) : Prop where
  cleanup : calls .cleanupCS
  release : ∀ st, calls (.release st)
  wait : ∀ l n, calls (.readDRDY l n) ↔ calls (.pollSleep l n)
  advance : ∀ {c : Nat} {call : PortCall} {rest rest' : List PortCall} {e : Event} {eff : Effect},
    call.Step c rest e rest' eff → calls call → ∀ m f rx, field (Device.advance m e f rest' eff rx) = field m
  conclude : ∀ m o st, o.operation = op →
    field (Device.conclude { m with holdsLock := false, op := none } o st) = field m

/-- The operation has calls of this kind left, and `field` has the value `a`. -/
def Lane.Leaves {α : Type} (op : Operation) (calls : PortCall → Prop) (field : Device → α) (a : α)
    (l : Lane) : Prop :=
  field l.dev = a ∧ ∀ o, l.dev.op = some o → o.operation = op ∧ ∀ call ∈ o.rest, calls call

theorem Lane.next_leaves {α : Type} {op : Operation} {calls : PortCall → Prop} {field : Device → α} {a : α}
    {me : Nat} {l : Lane} (hu : Untouched op calls field) (h : l.Leaves op calls field a) :
    (l.next me).Leaves op calls field a := by
  obtain ⟨ha, hcalls⟩ := id h
  refine Lane.next_induction h (fun o st rest ho hr => ⟨?_, ?_⟩)
    (fun o call rest e rest' eff f rx ho hr hs _ => ⟨?_, ?_⟩)
  · exact (hu.conclude l.dev o st (hcalls o ho).1).trans ha
  · simp [Lane.release_op]
  · exact (hu.advance hs ((hcalls o ho).2 call (hr ▸ List.mem_cons_self)) l.dev f rx).trans ha
  · obtain ⟨d, hd⟩ := Device.advance_op e f rest' eff rx ho
    obtain ⟨hop, hrest⟩ := hcalls o ho
    intro o' ho'
    cases hd.symm.trans ho'
    exact ⟨hop, hs.forall_mem hu.cleanup hu.release hu.wait (hr ▸ hrest)⟩

section
variable (m : Device) (f : Bool) (rest : List PortCall) (rx : List Byte) {e : Event} {eff : Effect}

theorem Device.advance_rstOut (he : ∀ l r, e ≠ .rst l r) : (m.advance e f rest eff rx).rstOut = m.rstOut := by
  have view := congrArg View.rst (m.advance_view e f rest eff rx)
  cases e with
  | rst l r => exact absurd rfl (he l r)
  | _ => exact view

theorem Device.advance_cache (heff : ∀ r g, eff ≠ .commit r g) :
    (m.advance e f rest eff rx).cfgRate = m.cfgRate ∧ (m.advance e f rest eff rx).cfgGain = m.cfgGain := by
  have rate := congrArg View.rate (m.advance_view e f rest eff rx)
  have gain := congrArg View.gain (m.advance_view e f rest eff rx)
  cases eff with
  | commit r g => exact absurd rfl (heff r g)
  | _ => exact ⟨rate, gain⟩

theorem Device.advance_pollCount (he : ∀ r, e ≠ .drdy r) (hr : eff ≠ .enterReset) (hc : eff ≠ .enterConverting) :
    (m.advance e f rest eff rx).pollCount = m.pollCount := by
  have observed : (m.observe e).pollCount = m.pollCount := by
    cases e with
    | drdy r => exact absurd rfl (he r)
    | cs _ r => cases r <;> rfl
    | rst _ r => cases r <;> rfl
    | _ => rfl
  rw [← observed]
  cases eff with
  | enterReset => exact absurd rfl hr
  | enterConverting => exact absurd rfl hc
  | _ => rfl

end

/-- A call that leaves the poll count alone. -/
def PortCall.keepsCount (call : PortCall) : Prop :=
  (∀ l n, call ≠ .readDRDY l n) ∧ (∀ l n, call ≠ .pollSleep l n) ∧ call.effect ≠ .enterReset ∧
    call.effect ≠ .enterConverting

section
variable {c : Nat} {call : PortCall} {rest rest' : List PortCall} {e : Event} {eff : Effect}
  (hs : call.Step c rest e rest' eff)
include hs

theorem PortCall.Step.ne_rst (h : call.keepsReset = true) (l : Level) (r : LineAnswer) : e ≠ .rst l r := by
  cases hs with
  | setRST | setRSTError => cases h
  | _ => nofun

theorem PortCall.Step.ne_drdy (h : ∀ l n, call ≠ .readDRDY l n) (r : DrdyAnswer) : e ≠ .drdy r := by
  cases hs with
  | seen l n | again l l' n hl hn | timeout l l' n hl | readError l n => exact absurd rfl (h _ _)
  | _ => nofun

theorem PortCall.Step.effect_ne {x : Effect} (hx : x ≠ .nothing) (h : call.effect ≠ x) : eff ≠ x := by
  obtain rfl | rfl := hs.effect_cases
  · exact h
  · exact hx.symm

end

/-- A SETCFG leaves the reset line and the poll count alone (R151). -/
theorem untouched_setcfg (r g : Byte) : Untouched (.setcfg r g)
    (fun call => call.keepsReset = true ∧ call.keepsCount)
    fun m => (m.rstOut, m.pollCount) where
  cleanup := by simp [PortCall.keepsReset, PortCall.keepsCount, PortCall.effect]
  release := by simp [PortCall.keepsReset, PortCall.keepsCount, PortCall.effect]
  wait := by simp [PortCall.keepsReset, PortCall.keepsCount]
  advance hs hc m f rx := by
    obtain ⟨hreset, hread, -, hr, hconv⟩ := hc
    rw [m.advance_rstOut f _ rx (hs.ne_rst hreset),
      m.advance_pollCount f _ rx (hs.ne_drdy hread) (hs.effect_ne nofun hr) (hs.effect_ne nofun hconv)]
  conclude m o st _ := by
    cases st <;> simp [Device.conclude]

/-- A READ leaves the reset line and the cache alone (R155). -/
theorem untouched_read (p n : Nat) : Untouched (.read p n)
    (fun call => call.keepsReset = true ∧ ∀ r g, call.effect ≠ .commit r g)
    fun m => (m.cfgRate, m.cfgGain, m.rstOut) where
  cleanup := by simp [PortCall.keepsReset, PortCall.effect]
  release := by simp [PortCall.keepsReset, PortCall.effect]
  wait := by simp [PortCall.keepsReset, PortCall.effect]
  advance hs hc m f rx := by
    obtain ⟨hreset, hcommit⟩ := hc
    obtain ⟨hrate, hgain⟩ := m.advance_cache f _ rx fun r g => hs.effect_ne nofun (hcommit r g)
    rw [hrate, hgain, m.advance_rstOut f _ rx (hs.ne_rst hreset)]
  conclude m o st ho := by
    by_cases hst : st = .ok
    · rw [hst]; rfl
    · rw [Device.conclude_error _ _ hst, ho]; rfl

/-! ### The whole operation -/

theorem finalLane_keeps {P : Lane → Prop} {s : State} {m : Device} (step : ∀ l, P l → P (l.next s.cur))
    (h : P (s.lane m)) : P (s.finalLane m) :=
  Lane.run_keeps step m.eventsLeft (s.lane m) h

/-- An operation that takes a free bus, and whose calls meet its goal, ends (R163). -/
theorem finalLane_op {s : State} {m : Device} {past : List (List Byte)} {op : Operation} {errs : List Status}
    {goal : View → Prop} (hb : (s.finalLane m).Brackets s.cur) (hc : (s.finalLane m).OnCourse past op errs goal) :
    (s.finalLane m).dev.op = none := by
  have stops : (s.finalLane m).next s.cur = s.finalLane m := Lane.run_stops s.cur m.eventsLeft (s.lane m) m.callsLeft_le
  cases ho : (s.finalLane m).dev.op with
  | none => rfl
  | some o =>
    simp only [Lane.Brackets, Lane.OnCourse, ho] at hb hc
    obtain ⟨-, -, hcourse, -⟩ := hc
    cases hr : o.rest with
    | nil => simp [Device.OnCourse, hr, Meets] at hcourse
    | cons call rest =>
      obtain ⟨rfl, j, hj⟩ := Lane.acquire_of_fixed stops ho hr
      obtain ⟨hfree, -⟩ | ⟨-, -, hacq⟩ := hb
      · cases hfree.symm.trans hj
      · exact absurd (hr ▸ List.mem_cons_self) hacq

/-- A plan takes the bus with its first call, and with no other. -/
def BeginsWithAcquire (plan : List PortCall) : Prop := ∃ calls, plan = .acquire :: calls ∧ .acquire ∉ calls

/-- An operation begun on a free bus ends cleanly, within the events its calls can take, in what its goal or an abort
shows. -/
theorem begin_ends {s : State} {m : Device} {op : Operation} {plan : List PortCall} {errs : List Status}
    {goal : View → Prop} {bound : Nat} (hfree : s.busOwner = none) (hm : s.devices[s.cur]? = some m)
    (hplan : BeginsWithAcquire plan) (hok : .ok ∉ errs) (hmeets : Meets errs goal m.view plan)
    (hkeeps : ∀ call ∈ plan, call.KeepsCode)
    (hcode : ∀ p n, op = .read p n → ∃ tx, .transfer tx .keepData ∈ plan)
    (hbound : mostEvents m.pollCount plan ≤ bound) :
    endedCleanly s (s.putDevice (m.begin op plan)).finish m (s.finalLane (m.begin op plan)).dev bound ∧
    (s.finalLane (m.begin op plan)).dev.Ended m.env.responses op errs goal := by
  have course := finalLane_keeps (s := s) (P := Lane.OnCourse m.env.responses op errs goal)
    (fun _ => Lane.next_onCourse hok) (m := m.begin op plan)
    ⟨rfl, rfl, .inl hmeets, hkeeps, fun p n hp => .inr (.inr (hcode p n hp))⟩
  have brackets := finalLane_keeps (P := Lane.Brackets s.cur) (fun _ => Lane.next_brackets) (m := m.begin op plan)
    (.inl ⟨hfree, rfl, hplan⟩)
  have keeps := finalLane_keeps (s := s) (P := fun l => m.Keeps l.dev)
    (fun l h => h.trans (l.next_keeps s.cur)) (m := m.begin op plan) ⟨rfl, id⟩
  have requests := finalLane_keeps (s := s) (P := fun l => l.dev.env.requests = m.env.requests)
    (fun l h => (l.next_requests s.cur).trans h) (m := m.begin op plan) rfl
  have length := finalLane_keeps (s := s) (P := fun l => l.events.length + l.dev.mostEvents ≤ bound)
    (fun l h => (l.next_length s.cur).trans h) (m := m.begin op plan) ((Nat.zero_add _).trans_le hbound)
  have final := finish_putDevice hm (m.begin op plan)
  have ended := finalLane_op brackets course
  generalize s.finalLane (m.begin op plan) = l at *
  simp only [Lane.Brackets, Lane.OnCourse, ended] at brackets course
  obtain ⟨hown, hlock, hhead, hlast⟩ := brackets
  obtain ⟨hlow, hhigh⟩ := course.1
  obtain ⟨hvref, hfault⟩ := keeps
  have frame : (s.putDevice (m.begin op plan)).finish =
      { s with devices := s.devices.set s.cur l.dev, trace := s.trace ++ l.events.map fun e => (s.cur, e) } := by
    rw [final, State.withLane, hown, ← hfree]
  exact ⟨⟨⟨l.events, frame, by omega, hhead, hlast⟩, ended, hlock, hlow, hhigh, hfault, hvref, requests⟩,
    course⟩

/-- An operation begun and run leaves a field that its calls and its end do not touch. -/
theorem begin_leaves {α : Type} (s : State) (m : Device) {op : Operation} {plan : List PortCall}
    {calls : PortCall → Prop} {field : Device → α} (hu : Untouched op calls field)
    (hcalls : ∀ call ∈ plan, calls call) :
    field (s.finalLane (m.begin op plan)).dev = field (m.begin op plan) :=
  (finalLane_keeps (P := Lane.Leaves op calls field (field (m.begin op plan))) (fun _ => Lane.next_leaves hu)
    ⟨rfl, fun _ ho => Option.some.inj ho ▸ ⟨rfl, hcalls⟩⟩).1

/-! ### The obligations about every run -/

/-- What INIT or SETCFG shows when it ends OK. -/
def Reconfigured (r g : Byte) (v : View) : Prop := v.fsm = .configured ∧ v.rate = some r ∧ v.gain = some g

section
variable (ps : Params) (r g drate : Byte)

theorem initPlan_beginsWithAcquire : BeginsWithAcquire (initPlan ps r g drate) :=
  ⟨_, rfl, by simp [resetPulse, writeConfig]⟩

theorem initPlan_meets (v : View) :
    Meets [.transportError, .gpioError, .timeout] (fun v => Reconfigured r g v ∧ v.rst = .high) v
      (initPlan ps r g drate) := by
  simp [initPlan, resetPulse, writeConfig, Meets, PortCall.errors, PortCall.success, PortCall.effect, View.after, lineOf,
    Effect.track, Reconfigured]

theorem initPlan_keepsCode : ∀ call ∈ initPlan ps r g drate, call.KeepsCode := by
  simp [initPlan, resetPulse, writeConfig, PortCall.KeepsCode, PortCall.effect]

theorem initPlan_mostEvents (h : 1 ≤ ps.initPolls) (c : Nat) :
    mostEvents c (initPlan ps r g drate) ≤ 11 + 2 * ps.initPolls + 2 := by
  simp only [initPlan, resetPulse, writeConfig, List.cons_append, List.nil_append, mostEvents]
  omega

theorem setcfgPlan_beginsWithAcquire : BeginsWithAcquire (setcfgPlan r g drate) :=
  ⟨_, rfl, by simp [writeConfig]⟩

theorem setcfgPlan_meets (v : View) :
    Meets [.transportError, .gpioError] (Reconfigured r g) v (setcfgPlan r g drate) := by
  simp [setcfgPlan, writeConfig, Meets, PortCall.errors, PortCall.success, PortCall.effect, View.after, lineOf,
    Effect.track, Reconfigured]

theorem setcfgPlan_keepsCode : ∀ call ∈ setcfgPlan r g drate, call.KeepsCode := by
  simp [setcfgPlan, writeConfig, PortCall.KeepsCode, PortCall.effect]

theorem setcfgPlan_keeps : ∀ call ∈ setcfgPlan r g drate, call.keepsReset = true ∧ call.keepsCount := by
  simp [setcfgPlan, writeConfig, PortCall.keepsReset, PortCall.keepsCount, PortCall.effect]

theorem setcfgPlan_mostEvents (c : Nat) : mostEvents c (setcfgPlan r g drate) ≤ 6 + 2 := by
  simp [setcfgPlan, writeConfig, mostEvents]

end

section
variable (cp : ChipParams) (polls p n : Nat)

theorem readPlan_beginsWithAcquire : BeginsWithAcquire (readPlan cp polls p n) :=
  ⟨_, rfl, by simp⟩

theorem readPlan_meets (v : View) :
    Meets [.transportError, .gpioError, .timeout] (fun v => v.fsm = .idle) v (readPlan cp polls p n) := by
  simp [readPlan, Meets, PortCall.errors, PortCall.success, PortCall.effect, View.after, lineOf, Effect.track]

theorem readPlan_keepsCode : ∀ call ∈ readPlan cp polls p n, call.KeepsCode := by
  simp [readPlan, PortCall.KeepsCode, PortCall.effect, datareadFrame]

theorem readPlan_keeps :
    ∀ call ∈ readPlan cp polls p n, call.keepsReset = true ∧ ∀ r g, call.effect ≠ .commit r g := by
  simp [readPlan, PortCall.keepsReset, PortCall.effect]

theorem readPlan_mostEvents (h : 1 ≤ polls) (c : Nat) :
    mostEvents c (readPlan cp polls p n) ≤ 10 + 2 * polls + 2 := by
  simp only [readPlan, mostEvents]
  omega

end

/-- Settles O20: the plan of INIT meets its goal, and an abort leaves no configuration. -/
theorem initAlwaysEnds : Obligations.InitAlwaysEnds := by
  intro s m r g hm ho hf hr hg hfree hpolls
  obtain ⟨e, he⟩ : ∃ e, s.params.rates[r.toNat]? = some e := ⟨_, List.getElem?_eq_getElem hr⟩
  obtain ⟨clean, -, hend⟩ := begin_ends (op := .init r g) hfree hm (initPlan_beginsWithAcquire s.params r g e.drate)
    (by simp) (initPlan_meets s.params r g e.drate m.view) (initPlan_keepsCode s.params r g e.drate) nofun
    (initPlan_mostEvents s.params r g e.drate hpolls m.pollCount)
  refine ⟨_, _, exec_init_begun hm ho hf he hg, clean, ?_⟩
  generalize (s.finalLane _).dev = m' at hend ⊢
  obtain ⟨⟨⟨hfsm, hrate, hgain⟩, hrst⟩, _, rfl, hresp⟩ | ⟨st, hst, ⟨m₀, hview⟩, hresp⟩ := hend
  · exact .inl ⟨hfsm, hrate, hgain, hrst, hresp⟩
  · exact .inr ⟨congrArg View.fsm hview, congrArg View.rate hview, congrArg View.gain hview, st, hst, hresp⟩

/-- Settles O21: as O20, and no call of SETCFG touches the reset line or counts a read. -/
theorem setcfgAlwaysEnds : Obligations.SetcfgAlwaysEnds := by
  intro s m r g hm ho hf hr hg hfree
  obtain ⟨e, he⟩ : ∃ e, s.params.rates[r.toNat]? = some e := ⟨_, List.getElem?_eq_getElem hr⟩
  obtain ⟨clean, -, hend⟩ := begin_ends (op := .setcfg r g) hfree hm (setcfgPlan_beginsWithAcquire r g e.drate)
    (by simp) (setcfgPlan_meets r g e.drate m.view) (setcfgPlan_keepsCode r g e.drate) nofun
    (setcfgPlan_mostEvents r g e.drate m.pollCount)
  have kept := begin_leaves s m (untouched_setcfg r g) (setcfgPlan_keeps r g e.drate)
  refine ⟨_, _, exec_setcfg_begun hm ho hf he hg, clean, congrArg Prod.fst kept, congrArg Prod.snd kept, ?_⟩
  generalize (s.finalLane _).dev = m' at hend ⊢
  obtain ⟨⟨hfsm, hrate, hgain⟩, _, rfl, hresp⟩ | ⟨st, hst, ⟨m₀, hview⟩, hresp⟩ := hend
  · exact .inl ⟨hfsm, hrate, hgain, hresp⟩
  · exact .inr ⟨congrArg View.fsm hview, congrArg View.rate hview, congrArg View.gain hview, st, hst, hresp⟩

/-- Settles O22: the plan of READ meets its goal, an abort leaves `Idle` too, and no call of READ touches the cache or the
reset line. -/
theorem readAlwaysEnds : Obligations.ReadAlwaysEnds := by
  intro s m p n r e hm ho hf hc hr hp hn hfree hpolls i hi
  have reads : exec i s = exec (.read p n) s := by
    obtain rfl | hi := List.mem_cons.1 hi
    · rfl
    · obtain rfl := List.mem_singleton.1 hi
      split
      · rename_i hcom
        rw [hcom]
        rfl
      · rfl
  obtain ⟨clean, -, hend⟩ := begin_ends (op := .read p n) hfree hm
    (readPlan_beginsWithAcquire s.params.chip e.maxPolls p n) (by simp)
    (readPlan_meets s.params.chip e.maxPolls p n m.view) (readPlan_keepsCode s.params.chip e.maxPolls p n)
    (fun _ _ _ => ⟨datareadFrame s.params.chip, by simp [readPlan]⟩)
    (readPlan_mostEvents s.params.chip e.maxPolls p n hpolls m.pollCount)
  have kept := begin_leaves s m (untouched_read p n) (readPlan_keeps s.params.chip e.maxPolls p n)
  obtain ⟨hrate, hgain, hrst⟩ : _ ∧ _ ∧ _ := by simpa only [Prod.mk.injEq] using kept
  refine ⟨_, _, reads.trans (exec_read_begun hm ho hf hc hr hp hn), clean, ?_, hrate, hgain, hrst, ?_⟩
  all_goals generalize (s.finalLane _).dev = m' at hend ⊢
  · obtain ⟨hfsm, -⟩ | ⟨st, hst, ⟨m₀, hview⟩, -⟩ := hend
    · exact hfsm
    · exact congrArg View.fsm hview
  · obtain ⟨-, _, ⟨u, rfl⟩, hresp⟩ | ⟨st, hst, -, hresp⟩ := hend
    · exact .inl ⟨u, hresp⟩
    · exact .inr ⟨st, hst, hresp⟩

end Sys2Proof.Machine
end

section
/-! The scalar over numbers (42_voltage.md R191 to R194, R196): what a rounding keeps of its argument, the references
of R191, and VOLTS as SCALE. -/

namespace Sys2Proof.Machine

/-! ### The numbers of the format -/

/-- Every number of the format has a pattern. -/
theorem IsF64.exists_f64 {w : ℚ} (h : IsF64 w) : ∃ y : F64, f64Finite y = true ∧ f64Value y = w := by
  obtain ⟨k, n, hk, hn, hn', rfl⟩ := h
  have exact_magnitude : IsF64 ((k.natAbs : ℚ) * 2 ^ n) := isF64_of_nat (by have := abs_lt.1 hk; omega) hn hn'
  refine ⟨roundPack (decide (k < 0)) k.natAbs n, f64Finite_roundPack _ _ _, ?_⟩
  rw [f64Value_roundPack_of_isF64 _ exact_magnitude, ← mul_assoc]
  congr 1
  rcases lt_or_ge k 0 with hneg | hpos
  · rw [decide_eq_true hneg, signFactor_true, Nat.cast_natAbs, abs_of_neg hneg]
    push_cast
    ring
  · rw [decide_eq_false (not_lt.2 hpos), signFactor_false, Nat.cast_natAbs, abs_of_nonneg hpos, one_mul]

theorem isF64_zero : IsF64 0 := ⟨0, 0, by norm_num, by norm_num, by norm_num, by norm_num⟩

/-- A number of at least `2 ^ -990` keeps its 53 bits when it is divided by `2 ^ j`, up to 32. -/
theorem IsF64.div_two_pow {w : ℚ} (h : IsF64 w) (large : (2 : ℚ) ^ (-990 : ℤ) ≤ |w|) {j : Nat} (hj : j ≤ 32) :
    IsF64 (w / 2 ^ j) := by
  obtain ⟨k, n, hk, hn, hn', rfl⟩ := h
  have hk' : |(k : ℚ)| < 2 ^ (53 : ℤ) := by exact_mod_cast hk
  rw [abs_mul, abs_of_pos (by positivity : (0 : ℚ) < 2 ^ n)] at large
  have size : (2 : ℚ) ^ (-990 : ℤ) < 2 ^ (53 + n) := by
    calc (2 : ℚ) ^ (-990 : ℤ) ≤ |(k : ℚ)| * 2 ^ n := large
      _ < 2 ^ (53 : ℤ) * 2 ^ n := by gcongr
      _ = 2 ^ (53 + n) := (zpow_add₀ two_ne_zero _ _).symm
  have exponent : -990 < 53 + n := (zpow_lt_zpow_iff_right₀ (by norm_num)).1 size
  exact ⟨k, n - j, hk, by omega, by omega, by rw [zpow_sub₀ two_ne_zero, zpow_natCast, mul_div_assoc]⟩

/-- The quotient of a number of that size is not subnormal. -/
theorem le_abs_div_two_pow {w : ℚ} (large : (2 : ℚ) ^ (-990 : ℤ) ≤ |w|) {j : Nat} (hj : j ≤ 32) :
    (2 : ℚ) ^ (-1022 : ℤ) ≤ |w / 2 ^ j| := by
  rw [abs_div, abs_of_pos (by positivity : (0 : ℚ) < 2 ^ j)]
  calc (2 : ℚ) ^ (-1022 : ℤ) ≤ 2 ^ ((-990 : ℤ) - j) := zpow_le_zpow_right₀ (by norm_num) (by omega)
    _ = 2 ^ (-990 : ℤ) / 2 ^ j := by rw [zpow_sub₀ two_ne_zero, zpow_natCast]
    _ ≤ |w| / 2 ^ j := by gcongr

theorem abs_div_two_pow_le {w : ℚ} {a : ℤ} {j : Nat} (h : |w| ≤ 2 ^ a) (hj : a - j ≤ 1023) :
    |w / 2 ^ j| ≤ 2 ^ (1023 : ℤ) := by
  rw [abs_div, abs_of_pos (by positivity : (0 : ℚ) < 2 ^ j)]
  calc |w| / 2 ^ j ≤ 2 ^ a / 2 ^ j := by gcongr
    _ = 2 ^ (a - j) := by rw [zpow_sub₀ two_ne_zero, zpow_natCast]
    _ ≤ 2 ^ (1023 : ℤ) := zpow_le_zpow_right₀ (by norm_num) hj

theorem abs_f64Value (x : F64) : |f64Value x| = f64Mant x * 2 ^ f64Scale x := by
  rw [f64Value_eq, abs_mul, abs_of_nonneg (by positivity : (0 : ℚ) ≤ f64Mant x * 2 ^ f64Scale x)]
  cases f64Sign x <;> simp

/-- Zero and the subnormal patterns lie below the smallest normal number. -/
theorem abs_f64Value_lt_of_f64Exp_zero {x : F64} (h : f64Exp x = 0) : |f64Value x| < 2 ^ (-1022 : ℤ) := by
  have small : (f64Frac x : ℚ) < 2 ^ (52 : ℤ) := by exact_mod_cast f64Frac_lt x
  rw [abs_f64Value, f64Mant, f64Scale, if_pos h, if_pos h]
  calc (f64Frac x : ℚ) * 2 ^ (-1074 : ℤ) < 2 ^ (52 : ℤ) * 2 ^ (-1074 : ℤ) := by gcongr
    _ = 2 ^ (-1022 : ℤ) := by rw [← zpow_add₀ two_ne_zero]; norm_num

/-- The number before a normal one is closer to it than its `2 ^ -23`th part. -/
theorem IsF64.exists_just_below {w : ℚ} (h : IsF64 w) (normal : (2 : ℚ) ^ (-1022 : ℤ) ≤ w) :
    ∃ v, IsF64 v ∧ w * (1 - 1 / 2 ^ 23) ≤ v ∧ v < w := by
  obtain ⟨y, finite, rfl⟩ := h.exists_f64
  have positive : 0 < f64Value y := lt_of_lt_of_le (by positivity) normal
  have value : f64Value y = f64Mant y * 2 ^ f64Scale y := by rw [← abs_f64Value, abs_of_pos positive]
  have hexp : f64Exp y ≠ 0 := fun subnormal =>
    absurd normal (not_le.2 (by simpa [abs_of_pos positive] using abs_f64Value_lt_of_f64Exp_zero subnormal))
  have hmant : 2 ^ 52 ≤ f64Mant y := by simp [f64Mant, hexp]
  have bound := f64Mant_lt y
  refine ⟨(f64Mant y - 1 : Nat) * 2 ^ f64Scale y, isF64_of_nat (by omega) (f64Scale_ge y) (f64Scale_le finite), ?_, ?_⟩
  all_goals rw [value, Nat.cast_sub (by omega : 1 ≤ f64Mant y)]
  · have hmant' : (2 ^ 52 : ℚ) ≤ f64Mant y := by exact_mod_cast hmant
    rw [mul_right_comm]
    gcongr
    push_cast
    linarith
  · gcongr
    push_cast
    linarith

/-! ### What a rounding keeps -/

section
variable {x y w : ℚ} {r t : F64} (hr : IsRne x r)
include hr

theorem IsRne.finite : f64Finite r = true := hr.1

/-- No number of the format is nearer. -/
theorem IsRne.near_of_isF64 (hw : IsF64 w) : |x - f64Value r| ≤ |x - w| := by
  obtain ⟨_, finite, rfl⟩ := hw.exists_f64
  obtain ⟨-, nearest, -⟩ := hr
  exact (nearest _ finite).1

/-- A number of the format is not changed. -/
theorem IsRne.value_of_isF64 (hx : IsF64 x) : f64Value r = x := by
  have near := hr.near_of_isF64 hx
  rw [sub_self, abs_zero, abs_nonpos_iff, sub_eq_zero] at near
  exact near.symm

/-- A bound above that is a number of the format holds of the result too. -/
theorem IsRne.value_le (hw : IsF64 w) (h : x ≤ w) : f64Value r ≤ w := by
  by_contra above
  have near := hr.near_of_isF64 hw
  rw [abs_of_nonpos (by linarith), abs_of_nonpos (by linarith)] at near
  linarith

/-- A bound below that is a number of the format holds of the result too. -/
theorem IsRne.le_value (hw : IsF64 w) (h : w ≤ x) : w ≤ f64Value r := by
  by_contra below
  have near := hr.near_of_isF64 hw
  rw [abs_of_nonneg (by linarith), abs_of_nonneg (by linarith)] at near
  linarith

/-- Rounding is monotone (R196): each result is as near to its argument as the other result, so results in the wrong order
put the arguments in the wrong order. -/
theorem IsRne.value_le_of_lt (ht : IsRne y t) (h : x < y) : f64Value r ≤ f64Value t := by
  by_contra crossed
  have near := sq_le_sq.2 (hr.near_of_isF64 (isF64_f64Value ht.finite))
  have near' := sq_le_sq.2 (ht.near_of_isF64 (isF64_f64Value hr.finite))
  nlinarith [mul_pos (sub_pos.2 h) (sub_pos.2 (not_le.1 crossed))]

/-- The result is not subnormal where the argument is not below the smallest normal number. -/
theorem IsRne.f64Exp_ne_zero (h : (2 : ℚ) ^ (-1022 : ℤ) ≤ |x|) : f64Exp r ≠ 0 := by
  intro subnormal
  have smallest : IsF64 (2 ^ (-1022 : ℤ)) := ⟨1, -1022, by norm_num, by norm_num, by norm_num, by norm_num⟩
  have small := abs_f64Value_lt_of_f64Exp_zero subnormal
  rw [abs_lt] at small
  obtain ⟨above, below⟩ := small
  rcases le_abs.1 h with hpos | hneg
  · exact absurd (hr.le_value smallest hpos) (not_le.2 below)
  · exact absurd (hr.value_le smallest.neg (le_neg.1 hneg)) (not_le.2 above)

end

/-! ### References in the range of R191 -/

section
variable {vref : F64} (hv : ordinaryVref vref)
include hv

/-- The quotient by a gain, or by more, is a number of the format. -/
theorem isF64_vref_div {k : Nat} (hk : k ≤ 32) : IsF64 (f64Value vref / 2 ^ k) := by
  obtain ⟨valid, low, -⟩ := hv
  obtain ⟨finite, -⟩ := (validVref_iff vref).1 valid
  exact (isF64_f64Value finite).div_two_pow (low.trans (le_abs_self _)) hk

/-- Dividing the reference by a gain is exact (R191). -/
theorem f64Value_vref_div {k : Nat} (hk : k ≤ 32) : f64Value (f64DivPow2 vref k) = f64Value vref / 2 ^ k :=
  f64Value_f64DivPow2_of_isF64 (isF64_vref_div hv hk)

/-- The exact product of the two quotients. -/
theorem code_div_mul_vref_div (c : Code32) {k : Nat} (hk : k ≤ 32) :
    f64Value (f64DivPow2 (f64OfCode c) 23) * f64Value (f64DivPow2 vref k) =
      (c.toInt : ℚ) * f64Value vref / 2 ^ (23 + k) := by
  rw [f64Value_code_div, f64Value_vref_div hv hk, div_mul_div_comm, ← pow_add]

theorem le_abs_code_mul_vref {c : Code32} (hc : c.toInt ≠ 0) :
    (2 : ℚ) ^ (-990 : ℤ) ≤ |(c.toInt : ℚ) * f64Value vref| := by
  obtain ⟨-, low, -⟩ := hv
  have code : (1 : ℚ) ≤ |(c.toInt : ℚ)| := by exact_mod_cast Int.one_le_abs hc
  rw [abs_mul]
  exact (low.trans (le_abs_self _)).trans (le_mul_of_one_le_left (abs_nonneg _) code)

theorem abs_code_mul_vref_le (c : Code32) : |(c.toInt : ℚ) * f64Value vref| ≤ 2 ^ (1031 : ℤ) := by
  obtain ⟨valid, -, high⟩ := hv
  obtain ⟨-, positive⟩ := (validVref_iff vref).1 valid
  have code : |(c.toInt : ℚ)| ≤ 2 ^ (31 : ℤ) := by
    have lo := BitVec.le_toInt c
    have hi := BitVec.toInt_lt (x := c)
    have : |c.toInt| ≤ 2 ^ 31 := abs_le.2 (by omega)
    exact_mod_cast this
  rw [abs_mul, abs_of_pos positive]
  calc |(c.toInt : ℚ)| * f64Value vref ≤ 2 ^ (31 : ℤ) * 2 ^ (1000 : ℤ) := by gcongr
    _ = 2 ^ (1031 : ℤ) := by rw [← zpow_add₀ two_ne_zero]; norm_num

theorem scaleCode_of_ordinary {cp : ChipParams} {g : Byte} (hvalid : validGain cp g = true) (c : Code32) :
    scaleCode cp c g vref = some (scaleProduct c g vref) := by
  obtain ⟨finite, positive⟩ := (validVref_iff vref).1 hv.1
  exact scaleCode_of_legal hvalid finite positive c

/-- SCALE is the exact quotient rounded once (R191). -/
theorem scaleProduct_isRne (c : Code32) {g : Byte} (hg : g.toNat ≤ 6) :
    IsRne ((c.toInt : ℚ) * f64Value vref / 2 ^ (23 + g.toNat)) (scaleProduct c g vref) := by
  rw [← code_div_mul_vref_div hv c (by omega)]
  exact f64Mul_isRne _ _

/-- The same quotient as a part of full scale. -/
theorem scaleProduct_isRne_fullScale (c : Code32) {g : Byte} (hg : g.toNat ≤ 6) :
    IsRne (f64Value vref / 2 ^ g.toNat * (c.toInt / 2 ^ 23)) (scaleProduct c g vref) := by
  have rounded := scaleProduct_isRne hv c hg
  rwa [add_comm 23, pow_add, mul_comm (c.toInt : ℚ), ← div_mul_div_comm] at rounded

end

/-- Settles O10: both divisions are exact, so the product is the one rounding. -/
theorem scaleIsNearestToTheQuotient : Obligations.ScaleIsNearestToTheQuotient := by
  intro s m c g vref h hvalid hg hv
  have rounded := scaleProduct_isRne hv c hg
  refine ⟨f64Value_code_div c, f64Value_vref_div hv (by omega), scaleProduct c g vref,
    exec_scale_some h (scaleCode_of_ordinary hv hvalid c), rounded.finite, fun subnormal => ?_, rounded, ?_⟩
  · by_contra hc
    have large := le_abs_code_mul_vref hv fun zero => hc (BitVec.toInt_inj.1 zero)
    exact rounded.f64Exp_ne_zero (le_abs_div_two_pow large (by omega)) subnormal
  · rintro ⟨y, finite, product⟩
    apply rounded.value_of_isF64
    by_cases hc : c.toInt = 0
    · rw [hc, Int.cast_zero, zero_mul, zero_div]
      exact isF64_zero
    · have large := le_abs_code_mul_vref hv hc
      rw [← product] at large ⊢
      exact (isF64_f64Value finite).div_two_pow large (by omega)

/-! ### Full scale -/

/-- Code 0 gives +0.0: its mantissa is 0, and a legal reference has no sign (R196). -/
theorem scaleProduct_zero {vref : F64} (positive : 0 < f64Value vref) (g : Byte) : scaleProduct 0#32 g vref = 0#64 := by
  have code : f64DivPow2 (f64OfCode 0#32) 23 = 0#64 := by decide
  have sign : f64Sign (f64DivPow2 vref g.toNat) = false := by
    rw [f64Sign_f64DivPow2]
    exact ((f64Value_pos_iff vref).1 positive).1
  have mantissa : f64Mant 0#64 = 0 := by decide
  rw [scaleProduct, code, f64Mul, mantissa, Nat.zero_mul, sign, roundPack_zero]
  rfl

/-- Settles O11: minus full scale is a number of the format, and one lies between the exact quotient of the greatest code
and full scale. -/
theorem fullScaleCodes : Obligations.FullScaleCodes := by
  intro cp g vref hvalid hg hv
  have fullScale := isF64_vref_div hv (show g.toNat ≤ 32 by omega)
  have legal := scaleCode_of_ordinary hv hvalid
  have ⟨valid, low, _⟩ := hv
  obtain ⟨-, positive⟩ := (validVref_iff vref).1 valid
  refine ⟨⟨_, legal _, ?_⟩, (legal _).trans (congrArg some (scaleProduct_zero positive g)), _, legal _, ?_⟩
  · have rounded := scaleProduct_isRne_fullScale hv (BitVec.ofInt 32 (-(2 ^ 23))) hg
    have code : ((BitVec.ofInt 32 (-(2 ^ 23))).toInt : ℚ) / 2 ^ 23 = -1 := by
      rw [show (BitVec.ofInt 32 (-(2 ^ 23))).toInt = -(2 ^ 23) by decide]
      norm_num
    rw [code, mul_neg_one] at rounded
    exact rounded.value_of_isF64 fullScale.neg
  · have rounded := scaleProduct_isRne_fullScale hv (BitVec.ofInt 32 (2 ^ 23 - 1)) hg
    have code : ((BitVec.ofInt 32 (2 ^ 23 - 1)).toInt : ℚ) / 2 ^ 23 = 1 - 1 / 2 ^ 23 := by
      rw [show (BitVec.ofInt 32 (2 ^ 23 - 1)).toInt = 2 ^ 23 - 1 by decide]
      norm_num
    rw [code] at rounded
    have normal := le_abs_div_two_pow (low.trans (le_abs_self _)) (show g.toNat ≤ 32 by omega)
    rw [abs_of_pos (by positivity)] at normal
    obtain ⟨v, hw, above, below⟩ := fullScale.exists_just_below normal
    exact ⟨rounded, (rounded.value_le hw above).trans_lt below⟩

/-! ### The gain law -/

/-- `y'` is the pattern of `y` with the next lower exponent. -/
def IsHalf (y' y : F64) : Prop :=
  f64Sign y' = f64Sign y ∧ f64Mant y' = f64Mant y ∧ f64Scale y' = f64Scale y - 1

theorem IsHalf.value {y' y : F64} (h : IsHalf y' y) : f64Value y' = f64Value y / 2 := by
  obtain ⟨sign, mantissa, scale⟩ := h
  rw [f64Value_eq, f64Value_eq, sign, mantissa, scale, zpow_sub_one₀ two_ne_zero]
  ring

section
variable {m : Nat} {e : Int} (normal : (2 : ℚ) ^ (-1022 : ℤ) ≤ m * 2 ^ (e - 1))

include normal in
/-- The place is not yet the lowest where half of the argument is no smaller than the smallest normal number. -/
theorem roundPlace_gt_of_normal : -1074 < roundPlace m e := by
  by_contra lowest
  have place : roundPlace m e = -1074 := by
    have := roundPlace_ge m e
    omega
  have small : (m : ℚ) * 2 ^ e < 2 ^ (53 : ℤ) * 2 ^ (-1074 : ℤ) := by
    rw [← inPlaces_mul, place]
    gcongr
    exact inPlaces_lt m e
  rw [zpow_sub_one₀ two_ne_zero, ← mul_assoc] at normal
  rw [← zpow_add₀ two_ne_zero, show (53 + -1074 : ℤ) = -1022 + 1 by norm_num, zpow_add_one₀ two_ne_zero] at small
  linarith

theorem roundPlace_sub_one (hp : -1074 < roundPlace m e) : roundPlace m (e - 1) = roundPlace m e - 1 := by
  unfold roundPlace at hp ⊢
  omega

theorem roundSig_sub_one (hp : -1074 < roundPlace m e) : roundSig m (e - 1) = roundSig m e := by
  rw [roundSig, roundSig, roundPlace_sub_one hp, sub_sub_sub_cancel_right]

variable (within : (m : ℚ) * 2 ^ e ≤ 2 ^ (1023 : ℤ))
include normal within

/-- Half of an argument rounds to the next lower exponent, while both are normal and finite. -/
theorem roundedMagnitude_sub_one :
    roundedMagnitude m e = roundedMagnitude m (e - 1) + 2 ^ 52 ∧ 2 ^ 52 ≤ roundedMagnitude m (e - 1) := by
  have hp := roundPlace_gt_of_normal normal
  have hm : m ≠ 0 := by
    rintro rfl
    rw [Nat.cast_zero, zero_mul] at normal
    exact absurd normal (not_le.2 (by positivity))
  have hsig := le_roundSig hm hp
  have finite : unboundedMagnitude m e < 0x7FF * 2 ^ 52 := by
    by_contra past
    have large := (f64Value_roundPack_past hm (not_lt.1 past)).2
    have : (2 : ℚ) ^ (1023 : ℤ) < (2 ^ 53 - 1) * 2 ^ (971 : ℤ) := by
      rw [show (1023 : ℤ) = 52 + 971 by norm_num, zpow_add₀ two_ne_zero]
      gcongr
      norm_num
    exact absurd large (not_le.2 (within.trans_lt this))
  have unbounded : unboundedMagnitude m e = unboundedMagnitude m (e - 1) + 2 ^ 52 := by
    rw [unboundedMagnitude, unboundedMagnitude, roundSig_sub_one hp, roundPlace_sub_one hp]
    omega
  have normal_half : 2 ^ 52 ≤ unboundedMagnitude m (e - 1) := by
    rw [unboundedMagnitude, roundSig_sub_one hp]
    omega
  rw [roundedMagnitude, roundedMagnitude, if_neg hm, if_neg hm]
  omega

theorem roundPack_isHalf (neg : Bool) : IsHalf (roundPack neg m (e - 1)) (roundPack neg m e) := by
  obtain ⟨magnitude, exponent⟩ := roundedMagnitude_sub_one normal within
  have hexp : f64Exp (roundPack neg m e) = f64Exp (roundPack neg m (e - 1)) + 1 ∧
      f64Exp (roundPack neg m (e - 1)) ≠ 0 := by
    simp only [roundPack_eq, f64Exp_packBits (roundedMagnitude_lt_two_pow _ _)]
    omega
  have hfrac : f64Frac (roundPack neg m e) = f64Frac (roundPack neg m (e - 1)) := by
    simp only [roundPack_eq, f64Frac_packBits (roundedMagnitude_lt_two_pow _ _)]
    omega
  obtain ⟨hsucc, hnormal⟩ := hexp
  refine ⟨by simp, ?_, ?_⟩
  · rw [f64Mant, f64Mant, hfrac, if_neg hnormal, if_neg (by omega)]
  · rw [f64Scale, f64Scale, if_neg hnormal, if_neg (by omega)]
    omega

end

theorem f64DivPow2_succ_isHalf {x : F64} {k : Nat} (normal : (2 : ℚ) ^ (-1022 : ℤ) ≤ |f64Value x / 2 ^ (k + 1)|)
    (within : |f64Value x / 2 ^ k| ≤ 2 ^ (1023 : ℤ)) : IsHalf (f64DivPow2 x (k + 1)) (f64DivPow2 x k) := by
  have exact_quotient (j : Nat) : |f64Value x / 2 ^ j| = f64Mant x * 2 ^ (f64Scale x - j) := by
    rw [abs_div, abs_of_pos (by positivity : (0 : ℚ) < 2 ^ j), abs_f64Value, zpow_sub₀ two_ne_zero, zpow_natCast,
      mul_div_assoc]
  have next : f64Scale x - (k + 1 : Nat) = f64Scale x - k - 1 := by
    push_cast
    ring
  rw [exact_quotient, next] at normal
  rw [exact_quotient] at within
  rw [f64DivPow2, f64DivPow2, next]
  exact roundPack_isHalf normal within _

theorem f64Mul_isHalf {x y y' : F64} (h : IsHalf y' y) (normal : (2 : ℚ) ^ (-1022 : ℤ) ≤ |f64Value x * f64Value y'|)
    (within : |f64Value x * f64Value y| ≤ 2 ^ (1023 : ℤ)) : IsHalf (f64Mul x y') (f64Mul x y) := by
  have exact_product (z : F64) :
      |f64Value x * f64Value z| = (f64Mant x * f64Mant z : Nat) * 2 ^ (f64Scale x + f64Scale z) := by
    rw [abs_mul, abs_f64Value, abs_f64Value, zpow_add₀ two_ne_zero]
    push_cast
    ring
  obtain ⟨sign, mantissa, scale⟩ := h
  rw [exact_product, mantissa, scale, ← add_sub_assoc] at normal
  rw [exact_product] at within
  rw [f64Mul, f64Mul, sign, mantissa, scale, ← add_sub_assoc]
  exact roundPack_isHalf normal within _

/-- Settles O12: the exact division and the one rounding after it both pass to the next lower exponent; code 0 gives 0. -/
theorem doublingTheGainHalvesTheVoltage : Obligations.DoublingTheGainHalvesTheVoltage := by
  intro cp c g vref hvalid hvalid' hg hv
  refine ⟨_, _, scaleCode_of_ordinary hv hvalid c, scaleCode_of_ordinary hv hvalid' c, ?_⟩
  have ⟨valid, low, high⟩ := hv
  obtain ⟨-, positive⟩ := (validVref_iff vref).1 valid
  by_cases hc : c.toInt = 0
  · obtain rfl : c = 0#32 := BitVec.toInt_inj.1 hc
    have zero : f64Value 0#64 = 0 := f64Value_roundPack_zero false 0
    rw [scaleProduct_zero positive, scaleProduct_zero positive, zero, zero_div]
  · have next : (g + 1#8).toNat = g.toNat + 1 := BitVec.toNat_add_of_lt (by simp; omega)
    have reference : IsHalf (f64DivPow2 vref (g.toNat + 1)) (f64DivPow2 vref g.toNat) :=
      f64DivPow2_succ_isHalf (le_abs_div_two_pow (low.trans (le_abs_self _)) (by omega))
        (abs_div_two_pow_le ((abs_of_pos positive).trans_le high) (by omega))
    rw [scaleProduct, scaleProduct, next]
    refine (f64Mul_isHalf reference ?_ ?_).value
    · rw [code_div_mul_vref_div hv c (by omega)]
      exact le_abs_div_two_pow (le_abs_code_mul_vref hv hc) (by omega)
    · rw [code_div_mul_vref_div hv c (by omega)]
      exact abs_div_two_pow_le (abs_code_mul_vref_le hv c) (by push_cast; omega)

/-! ### Monotonicity -/

/-- Settles O13: the divided reference is not negative; where it is 0 (a subnormal reference can round to it) so is every
product, and elsewhere a greater code gives a greater exact product. -/
theorem scaleIsMonotone : Obligations.ScaleIsMonotone := by
  intro cp c c' g vref r r' hr hr' hle
  obtain ⟨-, positive⟩ : f64Finite vref = true ∧ 0 < f64Value vref := by
    by_contra degenerate
    rw [scaleCode_of_illegal fun legal => degenerate legal.2] at hr
    cases hr
  obtain rfl := scaleCode_eq_some hr
  obtain rfl := scaleCode_eq_some hr'
  have nonneg : 0 ≤ f64Value (f64DivPow2 vref g.toNat) :=
    (f64DivPow2_isRne vref g.toNat).le_value isF64_zero (by positivity)
  have rounded (c : Code32) : IsRne (c.toInt / 2 ^ 23 * f64Value (f64DivPow2 vref g.toNat)) (scaleProduct c g vref) := by
    rw [← f64Value_code_div]
    exact f64Mul_isRne _ _
  rcases hle.eq_or_lt with same | less
  · rw [BitVec.toInt_inj.1 same]
  rcases nonneg.eq_or_lt with zero | pos
  · have vanishes (c : Code32) : f64Value (scaleProduct c g vref) = 0 := by
      have product := rounded c
      rw [← zero, mul_zero] at product
      exact product.value_of_isF64 isF64_zero
    rw [vanishes, vanishes]
  · exact (rounded c).value_le_of_lt (rounded c') (by gcongr)

/-! ### VOLTS -/

theorem Fsm.operating_iff {f : Fsm} : f.operating = true ↔ f = .configured ∨ f = .idle := by
  cases f <;> decide

theorem exec_volts (c : Code32) (s : State) : exec (.volts c) s = execVolts c s := rfl

section
variable {s : State} {m : Device} (h : s.devices[s.cur]? = some m) (c : Code32)
include h

/-- With a cached gain VOLTS is SCALE (R192). -/
theorem exec_volts_cached {g : Byte} (hf : m.fsm.operating = true) (hg : m.cfgGain = some g) :
    exec (.volts c) s = exec (.scale c g m.vref) s := by
  rw [exec_volts, execVolts, onDevice_eq h]
  cases hr : scaleCode s.params.chip c g m.vref with
  | none => simp [exec_scale_none h hr, hf, hg, hr, mapNext, responseFrame, Status.code]
  | some r => simp [exec_scale_some h hr, hf, hg, hr, mapNext, responseFrame, Status.code]

theorem exec_volts_uncached (hf : m.fsm.operating = true) (hg : m.cfgGain = none) :
    exec (.volts c) s = .refused .cacheEmpty := by
  rw [exec_volts, execVolts, onDevice_eq h]
  simp [hf, hg, mapNext]

theorem exec_volts_wrongState (hf : ¬m.fsm.operating = true) : exec (.volts c) s = .refused (.wrongState m.fsm) := by
  rw [exec_volts, execVolts, onDevice_eq h]
  simp [hf, mapNext]

end

/-- Settles O15: with a cached gain VOLTS is SCALE, and legal operands give SCALE a result. -/
theorem voltsIsScaleWithTheCachedGain : Obligations.VoltsIsScaleWithTheCachedGain := by
  intro s m c h
  rw [← Fsm.operating_iff]
  refine ⟨fun g hf hg => ⟨exec_volts_cached h c hf hg, fun hgain hvref => ?_⟩, exec_volts_wrongState h c,
    exec_volts_uncached h c⟩
  obtain ⟨finite, positive⟩ := (validVref_iff m.vref).1 hvref
  have legal := scaleCode_of_legal hgain finite positive c
  exact ⟨_, legal, (exec_volts_cached h c hf hg).trans (exec_scale_some h legal)⟩

end Sys2Proof.Machine
end

section
/-! Requests that do not run (60_exceptions.md R214, R222): an illegal operand is answered with `ConfigError` and nothing
else, and a request that has no meaning, or that the record does not accept, is refused. -/

namespace Sys2Proof.Machine

/-! ### Operands that are rejected -/

theorem responseFrame_configError (payload : List Byte) : responseFrame .configError payload = [0x04#8] := rfl

section
variable {s : State} {m : Device} (hm : s.devices[s.cur]? = some m)
include hm

theorem exec_encmux_rejects {p n : Nat}
    (illegal : isChannel s.params.chip p = false ∨ isChannel s.params.chip n = false) :
    exec (.encmux p n) s = .next (s.putDevice (m.respond [0x04#8])) := by
  rw [exec_encmux hm, if_neg (not_and_or.2 (by simpa using illegal))]

theorem exec_scale_rejects {c : Code32} {g : Byte} {v : F64}
    (illegal : validGain s.params.chip g = false ∨ f64Finite v = false ∨ f64Value v ≤ 0) :
    exec (.scale c g v) s = .next (s.putDevice (m.respond [0x04#8])) := by
  refine exec_scale_none hm (scaleCode_of_illegal ?_ c)
  rintro ⟨gain, finite, positive⟩
  rcases illegal with noGain | notFinite | notPositive
  · cases noGain.symm.trans gain
  · cases notFinite.symm.trans finite
  · exact absurd positive (not_lt.2 notPositive)

variable (ho : m.op = none)
include ho

theorem finish_of_idle : s.finish = s :=
  (portStep_finish_of_fixed hm (Lane.next_idle ho)).2

/-- An operation that answers `ConfigError` before its first port event has ended with that. -/
theorem finish_rejected {start : Host.Outcome State Fault Refusal}
    (rejects : start = .next (s.putDevice (m.respond [0x04#8]))) :
    mapNext State.finish start = .next (s.putDevice (m.respond [0x04#8])) := by
  rw [rejects, mapNext, finish_of_idle (m := m.respond _) (getElem?_putDevice hm _) ho]

theorem startInit_rejects {r g : Byte} (hf : m.fsm.acceptsInit = true)
    (illegal : s.params.rates.length ≤ r.toNat ∨ validGain s.params.chip g = false) :
    startInit r g s = .next (s.putDevice (m.respond [0x04#8])) := by
  rw [startInit, onDevice_eq hm]
  rcases illegal with noRate | noGain
  · simp [ho, hf, rateAt, noRate, mapNext, responseFrame_configError]
  · simp [ho, hf, noGain, mapNext, responseFrame_configError]

theorem startSetcfg_rejects {r g : Byte} (hf : m.fsm.operating = true)
    (illegal : s.params.rates.length ≤ r.toNat ∨ validGain s.params.chip g = false) :
    startSetcfg r g s = .next (s.putDevice (m.respond [0x04#8])) := by
  rw [startSetcfg, onDevice_eq hm]
  rcases illegal with noRate | noGain
  · simp [ho, hf, rateAt, noRate, mapNext, responseFrame_configError]
  · simp [ho, hf, noGain, mapNext, responseFrame_configError]

theorem startRead_rejects {p n : Nat} {r : Byte} (hf : m.fsm.operating = true) (hc : m.cfgRate = some r)
    (hr : r.toNat < s.params.rates.length)
    (illegal : isChannel s.params.chip p = false ∨ isChannel s.params.chip n = false) :
    startRead p n s = .next (s.putDevice (m.respond [0x04#8])) := by
  have invalid : validChannels s.params.chip p n = false := Bool.and_eq_false_iff.2 illegal
  rw [startRead, onDevice_eq hm]
  simp [ho, hf, hc, rateAt, hr, invalid, mapNext, responseFrame_configError]

end

/-- Settles O24: the operations with a port answer before their first event, and the pure ones answer nothing else. -/
theorem configErrorTouchesNothing : Obligations.ConfigErrorTouchesNothing := by
  intro s m hm rejected
  refine ⟨fun r g ho hf illegal => finish_rejected hm ho (startInit_rejects hm ho (Fsm.acceptsInit_of hf) illegal),
    fun r g ho hf illegal => finish_rejected hm ho (startSetcfg_rejects hm ho (Fsm.operating_of hf) illegal),
    fun p n r ho hf hc hr => ?_, fun c g v => exec_scale_rejects hm, fun r v large => ?_,
    fun p n => exec_encmux_rejects hm, fun p illegal => exec_encmux_rejects hm (.inl illegal)⟩
  · have read (n : Nat) (illegal : isChannel s.params.chip p = false ∨ isChannel s.params.chip n = false) :
        exec (.read p n) s = .next rejected :=
      finish_rejected hm ho (startRead_rejects hm ho (Fsm.operating_of hf) hc hr illegal)
    exact ⟨read n, fun illegal => read _ (.inl illegal)⟩
  · rw [exec_encwreg hm, if_neg (by simp [validReg, large])]

/-! ### Requests that are refused -/

/-- Bytes are no request where their op byte is unassigned, or its length greater than theirs (R102). -/
theorem decodeHost_error {cp : ChipParams} {bytes : List Byte}
    (bad : ∀ op operands, bytes = op :: operands →
      hostLength cp op = none ∨ ∃ len, hostLength cp op = some len ∧ bytes.length < len) :
    ∃ e, decodeHost cp bytes = .error e := by
  cases decoded : decodeHost cp bytes with
  | error e => exact ⟨e, rfl⟩
  | ok i =>
    obtain ⟨-, layer, words⟩ := decodeHost_ok decoded
    obtain ⟨op, operands, split, length, -⟩ := frameLength i cp
    have assigned := length layer
    rw [words] at split
    rcases bad op operands split with unassigned | ⟨len, assigned', short⟩
    · cases unassigned.symm.trans assigned
    · cases assigned'.symm.trans assigned
      simp [split] at short

theorem hostLength_zero {cp : ChipParams} {op : Byte} (h : op.toNat = 0) : hostLength cp op = none := by
  simp [hostLength, h]

theorem step_badFrame {s : State} {m : Device} {bytes : List Byte} {more : List (List Byte)} {e : DecodeError}
    (hm : s.devices[s.turn.agent]? = some m) (ho : m.op = none) (hr : m.env.requests = bytes :: more)
    (he : decodeHost s.params.chip bytes = .error e) : step s = .refused (.badFrame e) := by
  rw [step, runTurn_no_op (s := s.takeTurn) hm ho]
  simp [serveHost, hr, he]

theorem mapNext_refused {α β : Type} {f : α → β} {o : Host.Outcome α Fault Refusal} (h : ∃ why, o = .refused why) :
    ∃ why, mapNext f o = .refused why := by
  obtain ⟨why, rfl⟩ := h
  exact ⟨why, rfl⟩

/-- The checks with which an operation begins let through only what comes after them. -/
theorem guarded_refused {m : Device} {accepts : Bool} {body : Host.Outcome Device Fault Refusal}
    (h : accepts = true → ∃ why, body = .refused why) :
    ∃ why, (if m.op.isSome then .refused .busy else if accepts then body else .refused (.wrongState m.fsm)) =
      (.refused why : Host.Outcome Device Fault Refusal) := by
  split
  · exact ⟨_, rfl⟩
  · split
    · exact h ‹_›
    · exact ⟨_, rfl⟩

section
variable {s : State} {m : Device} (hm : s.devices[s.cur]? = some m)
include hm

theorem startInit_refused (hf : ¬m.fsm.acceptsInit = true) (r g : Byte) : ∃ why, startInit r g s = .refused why := by
  rw [startInit, onDevice_eq hm]
  exact mapNext_refused (guarded_refused fun accepts => absurd accepts hf)

theorem startSetcfg_refused (hf : ¬m.fsm.operating = true) (r g : Byte) : ∃ why, startSetcfg r g s = .refused why := by
  rw [startSetcfg, onDevice_eq hm]
  exact mapNext_refused (guarded_refused fun accepts => absurd accepts hf)

theorem startRead_refused (h : m.fsm.operating = true → m.cfgRate = none) (p n : Nat) :
    ∃ why, startRead p n s = .refused why := by
  rw [startRead, onDevice_eq hm]
  exact mapNext_refused (guarded_refused fun accepts => ⟨.cacheEmpty, by rw [h accepts]; rfl⟩)

theorem exec_volts_refused (h : m.fsm.operating = true → m.cfgGain = none) (c : Code32) :
    ∃ why, exec (.volts c) s = .refused why := by
  by_cases hf : m.fsm.operating = true
  · exact ⟨_, exec_volts_uncached hm c hf (h hf)⟩
  · exact ⟨_, exec_volts_wrongState hm c hf⟩

/-- What R151, R154 and R192 refuse outside `Configured` and `Idle`. -/
theorem exec_refused_of_not_operating (hf : ¬m.fsm.operating = true) (r g : Byte) (p n : Nat) (c : Code32) :
    ∀ i ∈ [Instr.setcfg r g, .read p n, .readse p, .volts c], ∃ why, exec i s = .refused why := by
  simp only [List.forall_mem_cons, List.not_mem_nil, false_imp_iff, implies_true, and_true]
  exact ⟨mapNext_refused (startSetcfg_refused hm hf r g),
    mapNext_refused (startRead_refused hm (absurd · hf) p n),
    mapNext_refused (startRead_refused hm (absurd · hf) p _), exec_volts_refused hm (absurd · hf) c⟩

end

/-- Settles O25: no decoder accepts the bytes of the first clause, and the checks of an operation come before all it does. -/
theorem refusedRequests : Obligations.RefusedRequests := by
  refine ⟨fun s m bytes more hm ho hr bad => ?_, fun s m hm => ⟨fun hf r g p n c => ?_, fun hf r g p n c => ?_,
    fun hc p n => ?_, fun hc c => exec_volts_refused hm (fun _ => hc) c, fun hf r g => ?_⟩⟩
  · have noFrame : ∃ e, decodeHost s.params.chip bytes = .error e := by
      refine decodeHost_error fun op operands split => (bad op operands split).imp_left fun unassigned => ?_
      rcases unassigned with zero | large
      · exact hostLength_zero zero
      · exact hostLength_of_gt large
    obtain ⟨e, he⟩ := noFrame
    exact ⟨_, step_badFrame hm ho hr he⟩
  · exact exec_refused_of_not_operating hm (by simp [hf, Fsm.operating]) r g p n c
  · exact exec_refused_of_not_operating hm (mt Fsm.operating_iff.1 hf) r g p n c
  · simp only [List.forall_mem_cons, List.not_mem_nil, false_imp_iff, implies_true, and_true]
    exact ⟨mapNext_refused (startRead_refused hm (fun _ => hc) p n),
      mapNext_refused (startRead_refused hm (fun _ => hc) p _)⟩
  · refine mapNext_refused (startInit_refused hm ?_ r g)
    rcases hf with hf | hf <;> simp [hf, Fsm.acceptsInit]

end Sys2Proof.Machine
end

section
/-! The two port events that `Abort` leaves (60_exceptions.md R215 to R217). -/

namespace Sys2Proof.Machine

/-- The last event of an abort gives the lock back, and the operation ends with its error (R215, R217). -/
theorem Lane.next_release_error {me : Nat} {m : Device} {o : InProgress} {st : Status} (ho : m.op = some o)
    (herr : st ≠ .ok) (es : List Event) :
    Lane.next me { dev := m.goto [.release st], owner := some me, events := es } =
      { dev := ({ m with holdsLock := false, op := none }.afterAbort o.operation).respond [st.code]
        owner := none, events := es ++ [.rel] } := by
  rw [Lane.next_release (o := { o with rest := [.release st] }) (by simp [ho]) rfl, Lane.release,
    Device.conclude_error _ _ herr]
  simp [Device.goto]

/-- Settles O26: one `SetCS(High)`, whichever way it is answered, and then the release with the error. -/
theorem abortCleansUp : Obligations.AbortCleansUp := by
  intro me m o st es answer css ho herr hcs
  have stands : (m.abort st).op = some { o with rest := [.cleanupCS, .release st] } := by simp [ho]
  have drawn : (m.abort st).env.csAnswer me = answer := by simp [Env.csAnswer, hcs]
  rw [Lane.run_succ, Lane.next_cleanupCS (by exact stands) rfl, Lane.run_succ, Lane.run_zero]
  cases answer with
  | ok =>
    rw [Lane.cleanupCS_ok drawn, Lane.record, Lane.next_release_error (by exact stands) herr]
    cases o.operation <;> simp [Device.afterAbort, Device.respond, Env.afterCS, hcs]
  | gpioError =>
    rw [Lane.cleanupCS_error drawn, Lane.record, Lane.next_release_error (by exact stands) herr]
    cases o.operation <;> simp [Device.afterAbort, Device.respond, Env.afterCS, hcs]

end Sys2Proof.Machine
end

section
/-! The order of an operation's events in a trace (70_reset_and_hazards.md R244 to R246, R248, R250): what stands in a trace
that has brought the monitor where it is. -/

namespace Sys2Proof.Machine

section
variable {cp : ChipParams} {μ μ' : Mon} {e : Event} {events : List Event}

/-! ### The monitor along a trace -/

theorem Mon.run_last (h : Mon.run cp (events ++ [e]) = some μ) :
    ∃ ν, Mon.run cp events = some ν ∧ ν.next cp e = some μ := by
  obtain ⟨ν, hν, he⟩ := Option.bind_eq_some_iff.1 (List.foldlM_append.symm.trans h)
  exact ⟨ν, hν, by simpa using he⟩

/-- What holds before any event, and after each event that the monitor lets happen, holds of a trace that keeps the rules. -/
theorem Mon.run_induction {P : Mon → List Event → Prop} (start : P Mon.start [])
    (next : ∀ μ es e μ', Mon.run cp es = some μ → P μ es → μ.next cp e = some μ' → P μ' (es ++ [e]))
    (h : Mon.run cp events = some μ) : P μ events := by
  induction events using List.reverseRecOn generalizing μ with
  | nil => exact Option.some.inj h ▸ start
  | append_singleton es e ih =>
    obtain ⟨ν, hν, he⟩ := Mon.run_last h
    exact next ν es e μ hν (ih hν) he

/-- Where an event stands in the trace of a device, the monitor has come to it and lets it happen. -/
theorem Inv.monitor_at {s : State} {i : Nat} {m : Device} {before after : List Event} (hinv : Inv s)
    (hm : s.devices[i]? = some m) (htrace : traceOf i s.trace = before ++ e :: after) :
    ∃ ν ν', Mon.run s.params.chip before = some ν ∧ ν.next s.params.chip e = some ν' := by
  obtain ⟨-, -, hdevices, -⟩ := hinv
  obtain ⟨-, -, μ, hrun, -⟩ := (deviceOk_iff _ _ _).1 (hdevices i m hm)
  exact Mon.run_at (htrace ▸ hrun)

theorem Inv.chip_legal {s : State} (hinv : Inv s) : s.params.chip.legal = true := by
  obtain ⟨⟨legal, -⟩, -⟩ := hinv
  exact legal

/-! ### The reset line (R244, R245) -/

/-- Where a level of the reset line is being held, nothing but its sleep happens (R244). -/
theorem Mon.next_resting (hr : μ.resting = true) (h : μ.next cp e = some μ') :
    e = .sleep .tRst ∧ μ' = { μ with resting := false } := by
  simp only [Mon.next, hr, if_true, Option.ite_none_right_eq_some, Option.some.injEq] at h
  obtain ⟨⟨-, he⟩, hμ'⟩ := h
  exact ⟨he, hμ'.symm⟩

/-- The reset line changes only with CS not low, and the power-up delay is to be waited for after it. -/
theorem Mon.next_rst_any {l : Level} {r : LineAnswer} (h : μ.next cp (.rst l r) = some μ') :
    μ.low = false ∧ μ'.settled = false := by
  cases r with
  | ok =>
    obtain ⟨-, hlow, -, rfl⟩ := Mon.next_rst h
    exact ⟨hlow, rfl⟩
  | gpioError =>
    cases hr : μ.resting with
    | true => exact absurd (Mon.next_resting hr h).1 nofun
    | false =>
      simp only [Mon.next_of_rested hr, Mon.free, Option.ite_none_right_eq_some, Bool.and_eq_true,
        Bool.not_eq_true', Option.some.injEq] at h
      obtain ⟨⟨-, hlow⟩, rfl⟩ := h
      exact ⟨hlow, rfl⟩

/-- A sleep, where no level of the reset line is being held. -/
theorem Mon.next_sleep_of_rested {d : Duration} (hr : μ.resting = false) (h : μ.next cp (.sleep d) = some μ') :
    ∃ φ, μ.phase.afterSleep d = some φ ∧ μ' = { μ with settled := μ.settled || decide (d = .tPwrup), phase := φ } := by
  simp only [Mon.next_of_rested hr, Mon.free, Option.ite_none_right_eq_some, Option.map_eq_some_iff] at h
  obtain ⟨-, φ, hφ, hμ'⟩ := h
  exact ⟨φ, hφ, hμ'.symm⟩

/-- An event after which the power-up delay counts as waited for is its sleep, or comes when it did already and leaves the
reset line alone (R245). -/
theorem Mon.next_settled (h : μ.next cp e = some μ') (hs : μ'.settled = true) :
    e = .sleep .tPwrup ∨ (μ.settled = true ∧ ∀ l r, e ≠ .rst l r) := by
  cases e with
  | acq =>
    obtain ⟨-, -, rfl⟩ := Mon.next_acq h
    exact .inr ⟨hs, nofun⟩
  | rel =>
    obtain ⟨-, -, -, rfl⟩ := Mon.next_rel h
    exact .inr ⟨hs, nofun⟩
  | cs l r =>
    cases r with
    | ok =>
      obtain ⟨-, -, rfl⟩ := Mon.next_cs h
      exact .inr ⟨hs, nofun⟩
    | gpioError =>
      obtain ⟨-, -, rfl⟩ := Mon.next_cs (Mon.next_csError cp μ l ▸ h)
      exact .inr ⟨hs, nofun⟩
  | rst l r =>
    obtain ⟨-, unsettled⟩ := Mon.next_rst_any h
    simp [unsettled] at hs
  | xfer tx res =>
    obtain ⟨-, -, hset, -⟩ := Mon.next_xfer h
    exact .inr ⟨hset, nofun⟩
  | drdy r =>
    cases r with
    | level l =>
      obtain ⟨-, -, φ, -, rfl⟩ := Mon.next_drdy h
      exact .inr ⟨hs, nofun⟩
    | gpioError =>
      obtain ⟨-, rfl⟩ := Mon.next_drdyError h
      exact .inr ⟨hs, nofun⟩
  | sleep d =>
    cases hr : μ.resting with
    | true =>
      obtain ⟨-, rfl⟩ := Mon.next_resting hr h
      exact .inr ⟨hs, nofun⟩
    | false =>
      obtain ⟨φ, -, rfl⟩ := Mon.next_sleep_of_rested hr h
      obtain hset | hd := Bool.or_eq_true_iff.1 hs
      · exact .inr ⟨hset, nofun⟩
      · exact .inl (congrArg Event.sleep (of_decide_eq_true hd))

/-- The power-up delay was waited for, with no change of the reset line since. -/
def PoweredUp (events : List Event) : Prop :=
  ∃ a b : List Event, events = a ++ .sleep .tPwrup :: b ∧ ∀ l r, .rst l r ∉ b

theorem PoweredUp.concat (h : PoweredUp events) (he : ∀ l r, e ≠ .rst l r) : PoweredUp (events ++ [e]) := by
  obtain ⟨a, b, rfl, hb⟩ := h
  refine ⟨a, b ++ [e], by simp, fun l r => ?_⟩
  simpa [hb l r] using (he l r).symm

theorem Mon.poweredUp (h : Mon.run cp events = some μ) (hs : μ.settled = true) : PoweredUp events := by
  refine Mon.run_induction (P := fun μ es => μ.settled = true → PoweredUp es) nofun ?_ h hs
  intro μ es e μ' _ ih he hs
  obtain rfl | ⟨hset, hrst⟩ := Mon.next_settled he hs
  · exact ⟨es, [], rfl, by simp⟩
  · exact (ih hset).concat hrst

/-! ### The frames of a READ in their window (R155, R158) -/

/-- The events between the changes of chip select and of the lock. -/
def Event.InWindow (e : Event) : Prop := e ≠ .acq ∧ e ≠ .rel ∧ ∀ l r, e ≠ .cs l r

/-- The events by which a chip-select window goes on without an error, from phase to phase: anything before the MUX frame,
then READ's own, one by one (R155, R158). -/
inductive Phase.Moves (cp : ChipParams) : Phase → Event → Phase → Prop
  | fresh {e : Event} (h : e.InWindow) : Moves cp .fresh e .fresh
  | mux (p n : Nibble) (rx : List Byte) : Moves cp .fresh (.xfer (muxselFrame p n) (.rx rx)) .muxed
  | sync (rx : List Byte) : Moves cp .muxed (.xfer syncFrame (.rx rx)) .synced
  | rest : Moves cp .synced (.sleep .tSync) .rested
  | wakeup (rx : List Byte) : Moves cp .rested (.xfer (wakeupFrame cp) (.rx rx)) .woken
  | high : Moves cp .woken (.drdy (.level .high)) .woken
  | poll : Moves cp .woken (.sleep .tPoll) .woken
  | low : Moves cp .woken (.drdy (.level .low)) .ready
  | rdata (rx : List Byte) : Moves cp .ready (.xfer rdataFrame (.rx rx)) .asked
  | wait : Moves cp .asked (.sleep .tRdata) .due

theorem Phase.Moves.inWindow {φ φ' : Phase} (h : φ.Moves cp e φ') : e.InWindow := by
  cases h with
  | fresh h => exact h
  | _ => exact ⟨nofun, nofun, nofun⟩

theorem Phase.Moves.ne_over {φ φ' : Phase} (h : φ.Moves cp e φ') : φ ≠ .over := by
  cases h <;> nofun

theorem Phase.Moves.of_afterFrame {φ φ' : Phase} {tx : List Byte} (h : φ.afterFrame cp tx = some φ') (hφ' : φ' ≠ .over)
    (rx : List Byte) : φ.Moves cp (.xfer tx (.rx rx)) φ' := by
  unfold Phase.afterFrame at h
  split at h
  case h_1 =>
    obtain ⟨-, hfresh⟩ := Option.ite_none_right_eq_some.1 h
    cases hfresh
    exact .fresh ⟨nofun, nofun, nofun⟩
  all_goals cases h
  case h_2 p n hd =>
    obtain ⟨-, -, rfl⟩ := decodeChip_ok hd
    exact .mux p n rx
  case h_3 hd =>
    obtain ⟨-, -, rfl⟩ := decodeChip_ok hd
    exact .sync rx
  case h_4 hd =>
    obtain ⟨-, -, rfl⟩ := decodeChip_ok hd
    exact .wakeup rx
  case h_5 hd =>
    obtain ⟨-, -, rfl⟩ := decodeChip_ok hd
    exact .rdata rx
  case h_6 => exact absurd rfl hφ'

theorem Phase.Moves.of_afterSleep {φ φ' : Phase} {d : Duration} (h : φ.afterSleep d = some φ') :
    φ.Moves cp (.sleep d) φ' := by
  cases φ with
  | fresh =>
    obtain ⟨-, hφ'⟩ := Option.ite_none_left_eq_some.1 h
    cases hφ'
    exact .fresh ⟨nofun, nofun, nofun⟩
  | synced =>
    obtain ⟨rfl, hφ'⟩ := Option.ite_none_right_eq_some.1 h
    cases hφ'
    exact .rest
  | woken =>
    obtain ⟨rfl, hφ'⟩ := Option.ite_none_right_eq_some.1 h
    cases hφ'
    exact .poll
  | asked =>
    obtain ⟨rfl, hφ'⟩ := Option.ite_none_right_eq_some.1 h
    cases hφ'
    exact .wait
  | _ => cases h

theorem Phase.Moves.of_afterLevel {φ φ' : Phase} {l : Level} (h : φ.afterLevel l = some φ') :
    φ.Moves cp (.drdy (.level l)) φ' := by
  cases φ with
  | fresh =>
    cases h
    exact .fresh ⟨nofun, nofun, nofun⟩
  | woken =>
    cases l with
    | low =>
      cases h
      exact .low
    | high =>
      cases h
      exact .high
  | _ => cases h

/-- Inside a window the monitor moves from phase to phase, or the window is over. -/
theorem Mon.next_moves (h : μ.next cp e = some μ') (hheld : μ.held = true) (hlow : μ.low = true)
    (hr : μ.resting = false) (hcs : ∀ l r, e ≠ .cs l r) (hrel : e ≠ .rel) :
    μ'.resting = false ∧ (μ'.phase ≠ .over → μ.phase.Moves cp e μ'.phase) := by
  cases e with
  | acq =>
    obtain ⟨free, -⟩ := Mon.next_acq h
    simp [hheld] at free
  | rel => exact absurd rfl hrel
  | cs l r => exact absurd rfl (hcs l r)
  | rst l r =>
    obtain ⟨notLow, -⟩ := Mon.next_rst_any h
    simp [hlow] at notLow
  | xfer tx res =>
    obtain ⟨-, -, -, -, φ, hφ, hμ'⟩ := Mon.next_xfer h
    cases res with
    | rx rx =>
      obtain rfl : μ' = { μ with phase := φ } := hμ'
      exact ⟨hr, fun ho => .of_afterFrame hφ ho rx⟩
    | transportError =>
      obtain rfl : μ' = { μ with phase := .over } := hμ'
      exact ⟨hr, absurd rfl⟩
  | drdy r =>
    cases r with
    | level l =>
      obtain ⟨-, -, φ, hφ, rfl⟩ := Mon.next_drdy h
      exact ⟨hr, fun _ => .of_afterLevel hφ⟩
    | gpioError =>
      obtain ⟨-, rfl⟩ := Mon.next_drdyError h
      exact ⟨hr, absurd rfl⟩
  | sleep d =>
    obtain ⟨φ, hφ, rfl⟩ := Mon.next_sleep_of_rested hr h
    exact ⟨hr, fun _ => .of_afterSleep hφ⟩

/-- A trace that ends in a chip-select window which has come as far as a phase. -/
inductive ReachedInWindow (cp : ChipParams) : Phase → List Event → Prop
  | opened (es : List Event) : ReachedInWindow cp .fresh (es ++ [.cs .low .ok])
  | moved {φ φ' : Phase} {es : List Event} {e : Event} (h : ReachedInWindow cp φ es) (he : φ.Moves cp e φ') :
    ReachedInWindow cp φ' (es ++ [e])

/-- With CS low the trace ends in a window, in the phase the monitor has come to, unless a call failed there or the data
was read. -/
theorem Mon.reachedInWindow (h : Mon.run cp events = some μ) (hl : μ.low = true) (ho : μ.phase ≠ .over) :
    ReachedInWindow cp μ.phase events := by
  refine (Mon.run_induction (P := fun μ es => μ.low = true → μ.resting = false ∧
    (μ.phase ≠ .over → ReachedInWindow cp μ.phase es)) nofun ?_ h hl).2 ho
  intro μ es e μ' hrun ih he hl'
  obtain rfl | ⟨hl, hcs, hrel⟩ := Mon.next_low he hl'
  · obtain ⟨-, hr, rfl⟩ := Mon.next_cs he
    exact ⟨hr, fun _ => .opened es⟩
  · obtain ⟨hr, reached⟩ := ih hl
    obtain ⟨hr', moves⟩ := Mon.next_moves he (Mon.run_low hrun hl) hl hr hcs hrel
    exact ⟨hr', fun ho' => .moved (reached (moves ho').ne_over) (moves ho')⟩

/-! ### What stands in the window -/

theorem inWindow_concat {b : List Event} (hb : ∀ e ∈ b, e.InWindow) (he : e.InWindow) : ∀ x ∈ b ++ [e], x.InWindow :=
  List.forall_mem_append.2 ⟨hb, List.forall_mem_singleton.2 he⟩

theorem ReachedInWindow.exists_csLow {φ : Phase} (h : ReachedInWindow cp φ events) :
    ∃ a b, events = a ++ .cs .low .ok :: b ∧ ∀ e ∈ b, e.InWindow := by
  induction h with
  | opened es => exact ⟨es, [], rfl, by simp⟩
  | @moved _ _ _ e _ he ih =>
    obtain ⟨a, b, rfl, hb⟩ := ih
    exact ⟨a, b ++ [e], by simp, inWindow_concat hb he.inWindow⟩

theorem ReachedInWindow.exists_mux {φ : Phase} (h : ReachedInWindow cp φ events) (hφ : φ ≠ .fresh) :
    ∃ a b p n rx, events = a ++ .xfer (muxselFrame p n) (.rx rx) :: b ∧ ReachedInWindow cp .fresh a ∧
      ∀ e ∈ b, e.InWindow := by
  induction h with
  | opened es => exact absurd rfl hφ
  | @moved φ _ es e before he ih =>
    by_cases hfresh : φ = .fresh
    · subst hfresh
      cases he with
      | fresh h => exact absurd rfl hφ
      | mux p n rx => exact ⟨es, [], p, n, rx, rfl, before, by simp⟩
    · obtain ⟨a, b, p, n, rx, rfl, ha, hb⟩ := ih hfresh
      exact ⟨a, b ++ [e], p, n, rx, by simp, ha, inWindow_concat hb he.inWindow⟩

theorem ReachedInWindow.exists_wakeup (h : ReachedInWindow cp .woken events) :
    ∃ a b rx, events = a ++ .xfer (wakeupFrame cp) (.rx rx) :: b ∧ ∀ e ∈ b, e.InWindow := by
  generalize hφ : Phase.woken = φ at h
  induction h with
  | opened es => cases hφ
  | @moved _ _ es e _ he ih =>
    subst hφ
    have inWindow := he.inWindow
    cases he with
    | wakeup rx => exact ⟨es, [], rx, rfl, by simp⟩
    | high | poll =>
      obtain ⟨a, b, rx, rfl, hb⟩ := ih rfl
      exact ⟨a, b ++ [_], rx, by simp, inWindow_concat hb inWindow⟩

/-- `T_SYNC` was waited for right after SYNC (R155, R250). -/
theorem ReachedInWindow.ends_of_rested (h : ReachedInWindow cp .rested events) :
    ∃ a rx, events = a ++ [.xfer syncFrame (.rx rx), .sleep .tSync] := by
  cases h with | moved hsynced hrest
  cases hrest
  cases hsynced with | @moved _ _ a _ _ hsync
  cases hsync with | sync rx
  exact ⟨a, rx, List.append_assoc ..⟩

/-- `T_RDATA` was waited for right after RDATA (R158, R250). -/
theorem ReachedInWindow.ends_of_due (h : ReachedInWindow cp .due events) :
    ∃ a rx, events = a ++ [.xfer rdataFrame (.rx rx), .sleep .tRdata] := by
  cases h with | moved hasked hwait
  cases hwait
  cases hasked with | @moved _ _ a _ _ hrdata
  cases hrdata with | rdata rx
  exact ⟨a, rx, List.append_assoc ..⟩

/-- Data-ready was low right before, after the WAKEUP of the window (R246). -/
theorem ReachedInWindow.ends_of_ready (h : ReachedInWindow cp .ready events) :
    ∃ a b rx, events = a ++ .xfer (wakeupFrame cp) (.rx rx) :: b ++ [.drdy (.level .low)] ∧ ∀ e ∈ b, e.InWindow := by
  cases h with | moved hwoken hlow
  cases hlow
  obtain ⟨a, b, rx, rfl, hb⟩ := hwoken.exists_wakeup
  exact ⟨a, b, rx, rfl, hb⟩

/-- Where a frame of a READ's window stands in a trace, the trace before it has reached the phase that asks for it. -/
theorem Inv.reached_at {s : State} {i : Nat} {m : Device} {before after : List Event} {tx : List Byte} {res : XferResult}
    {φ : Phase} (hinv : Inv s) (hm : s.devices[i]? = some m) (htrace : traceOf i s.trace = before ++ .xfer tx res :: after)
    (hφ : ∀ ψ ψ' : Phase, ψ.afterFrame s.params.chip tx = some ψ' → ψ = φ) (ho : φ ≠ .over) :
    ReachedInWindow s.params.chip φ before := by
  obtain ⟨ν, ν', hrun, hnext⟩ := hinv.monitor_at hm htrace
  obtain ⟨-, hlow, -, -, ψ, hψ, -⟩ := Mon.next_xfer hnext
  exact hφ _ _ hψ ▸ Mon.reachedInWindow hrun hlow (hφ _ _ hψ ▸ ho)

theorem Phase.eq_ready_of_rdata {φ φ' : Phase} (h : φ.afterFrame cp rdataFrame = some φ') : φ = .ready := by
  cases φ <;> simp [Phase.afterFrame] at h ⊢

theorem Phase.eq_due_of_dataread {φ φ' : Phase} (h : φ.afterFrame cp (datareadFrame cp) = some φ') : φ = .due := by
  cases φ <;> simp [Phase.afterFrame] at h ⊢

theorem Phase.eq_rested_of_wakeup (hp : cp.legal = true) {φ φ' : Phase}
    (h : φ.afterFrame cp (wakeupFrame cp) = some φ') : φ = .rested := by
  cases φ <;> simp [Phase.afterFrame, decodeChip_wakeupFrame cp hp] at h ⊢

end

/-! ### The obligations about the order of events -/

/-- Settles O44: RDATA is sent in a window where data-ready was low, which it was after the WAKEUP. -/
theorem rdataOnlyAfterDataReady : Obligations.RdataOnlyAfterDataReady := by
  intro s i m before after res hinv hm htrace
  have reached := hinv.reached_at hm htrace (fun _ _ => Phase.eq_ready_of_rdata) nofun
  obtain ⟨a, b, rx, rfl, hb⟩ := reached.ends_of_ready
  exact ⟨a, b, [], rx, rfl, fun hacq => (hb _ hacq).1 rfl, by simp⟩

/-- Settles O45: the monitor admits a transfer only after the power-up delay. -/
theorem framesOnlyAfterPowerUp : Obligations.FramesOnlyAfterPowerUp := by
  intro s i m before after tx res hinv hm htrace
  obtain ⟨ν, ν', hrun, hnext⟩ := hinv.monitor_at hm htrace
  obtain ⟨-, -, settled, -⟩ := Mon.next_xfer hnext
  exact Mon.poweredUp hrun settled

/-- Settles O53: after a level of the reset line the monitor waits for the sleep that holds it. -/
theorem resetLevelsAreHeld : Obligations.ResetLevelsAreHeld := by
  intro s i m before after l e hinv hm htrace
  obtain ⟨ν, ν', hrun, hnext⟩ := hinv.monitor_at (before := before ++ [.rst l .ok]) hm (by simpa using htrace)
  obtain ⟨μ, -, hrst⟩ := Mon.run_last hrun
  obtain ⟨-, -, -, rfl⟩ := Mon.next_rst hrst
  exact (Mon.next_resting rfl hnext).1

/-- Settles O54: WAKEUP and the data read are sent in the phases that their delays end. -/
theorem commandsWaitTheirDelays : Obligations.CommandsWaitTheirDelays := by
  intro s i m before after res hinv hm
  refine ⟨fun htrace => ?_, fun htrace => ?_⟩
  · exact (hinv.reached_at hm htrace (fun _ _ => Phase.eq_rested_of_wakeup hinv.chip_legal) nofun).ends_of_rested
  · exact (hinv.reached_at hm htrace (fun _ _ => Phase.eq_due_of_dataread) nofun).ends_of_due

/-- Settles O55: the window of the data read holds the MUX frame, and begins with its CS low. -/
theorem chipSelectIsHeldAcrossAConversion : Obligations.ChipSelectIsHeldAcrossAConversion := by
  intro s i m before after res hinv hm htrace
  have reached := hinv.reached_at hm htrace (fun _ _ => Phase.eq_due_of_dataread) nofun
  obtain ⟨d, c, p, n, rx, rfl, fresh, hc⟩ := reached.exists_mux nofun
  obtain ⟨a, b, rfl, hb⟩ := fresh.exists_csLow
  exact ⟨a, b, c, p ++ n, rx, by rw [muxselFrame_eq], List.forall_mem_append.2 ⟨hb, hc⟩⟩

end Sys2Proof.Machine
end

section
/-! A placed frame: what the decoder reads from it, where the device instance stands with it, and the step that runs it
(log entry 13). -/

namespace Sys2Proof.Machine

section
variable {cp : ChipParams} {s : State} {m : Device} {bytes tx : List Byte} {i : Instr}

/-! ### The frame of a table word -/

/-- The frame of a table word, as given or padded, is one that the decoder of its layer reads the instruction from. -/
theorem decodeFrame_of_tableFrame {nbits w : Nat} {layer : Layer}
    (h : tableFrame cp nbits w = some (layer, bytes, i)) : decodeFrame cp layer bytes = .ok i := by
  simp only [tableFrame] at h
  split at h
  case h_5 => cases h
  all_goals
    cases h
    assumption

/-! ### Where the device instance stands -/

/-- What is left of the operation begins with the transfer of the placed frame. -/
theorem frameTail_of_decodeChip (polls : Nat) (h : decodeChip cp tx = .ok i) :
    ∃ eff rest, frameTail cp polls tx = .transfer tx eff :: rest := by
  obtain ⟨-, hchip, rfl⟩ := decodeChip_ok h
  unfold frameTail
  rw [h]
  cases i with
  | wreg | muxsel | sync | wakeup | rdata | dataread => exact ⟨_, _, rfl⟩
  | _ => cases hchip

theorem Device.atFrame_dueFrame (m : Device) (polls : Nat) (h : decodeChip cp tx = .ok i) :
    (m.atFrame cp polls tx).dueFrame = some tx := by
  obtain ⟨eff, rest, htail⟩ := frameTail_of_decodeChip polls h
  exact dueFrame_transfer rfl htail

/-- The state in which a placed request is served: the turn is taken, the request is the oldest of the queue. -/
def State.withOldestRequest (s : State) (m : Device) (bytes : List Byte) : State :=
  { s.putDevice (m.withRequest bytes) with ticks := s.ticks + 1 }

theorem popRequest_withOldestRequest (s : State) (m : Device) (bytes : List Byte) :
    (s.withOldestRequest m bytes).popRequest (m.withRequest bytes) =
      { s.putDevice { m with op := none } with ticks := s.ticks + 1 } := by
  simp [State.withOldestRequest, State.popRequest, State.putDevice, Device.withRequest]

/-- The state in which a placed chip frame runs: the turn is taken, the operation stands at the transfer. -/
def State.standingAt (s : State) (m : Device) (tx : List Byte) : State :=
  { s.putDevice (m.atFrame s.params.chip s.params.initPolls tx) with busOwner := some s.cur, ticks := s.ticks + 1 }

/-! ### The step -/

section
variable (hm : s.devices[s.cur]? = some m)
include hm

theorem withOldestRequest_device (bytes : List Byte) :
    (s.withOldestRequest m bytes).devices[s.cur]? = some (m.withRequest bytes) :=
  getElem?_putDevice hm _

theorem standingAt_device (tx : List Byte) :
    (s.standingAt m tx).devices[s.cur]? = some (m.atFrame s.params.chip s.params.initPolls tx) :=
  getElem?_putDevice hm _

theorem step_placeFrame_host (h : decodeHost s.params.chip bytes = .ok i) :
    step (s.placeFrame .host bytes) = exec i { s.putDevice { m with op := none } with ticks := s.ticks + 1 } := by
  have turn : step (s.placeFrame .host bytes) = runTurn .whole (s.withOldestRequest m bytes) := by
    simp only [State.placeFrame, hm]; rfl
  rw [turn, runTurn_no_op (withOldestRequest_device hm bytes) rfl,
    serveHost_whole (s := s.withOldestRequest m bytes) rfl h, popRequest_withOldestRequest]

theorem step_placeFrame_chip (h : decodeChip s.params.chip tx = .ok i) :
    step (s.placeFrame .chip tx) = exec i (s.standingAt m tx) := by
  have turn : step (s.placeFrame .chip tx) = runTurn .event (s.standingAt m tx) := by
    simp only [State.placeFrame, hm]; rfl
  rw [turn, runTurn_op (standingAt_device hm tx) rfl,
    continueOp_frame (s := s.standingAt m tx) (m.atFrame_dueFrame _ h) h]

end

end

/-- Settles O39: the table's frame decodes in its layer; placed, a host request is at the head of the queue, and a chip
frame is due, so its instruction's words are sent. -/
theorem placedFrameRunsNext : Obligations.PlacedFrameRunsNext := by
  intro s m nbits w i hm hword
  obtain ⟨⟨layer, bytes, i⟩, hframe, rfl⟩ := Option.map_eq_some_iff.1 hword
  have hdecode := decodeFrame_of_tableFrame hframe
  obtain ⟨-, hlayer, hwords⟩ := encodeOfDecode _ _ _ _ hdecode
  have place : s.withFetchWord nbits w = s.placeFrame layer bytes := by simp only [State.withFetchWord, hframe]
  rw [place]
  refine ⟨fun hhost => ?_, fun hchip => ?_⟩
  · obtain rfl : layer = .host := hlayer.symm.trans hhost
    exact step_placeFrame_host hm hdecode
  · obtain rfl : layer = .chip := hlayer.symm.trans hchip
    have here := standingAt_device hm bytes
    have due := (m.atFrame_dueFrame s.params.initPolls hdecode).trans (congrArg some hwords.symm)
    have completes := (exec_of_chip hchip (s.standingAt m bytes)).trans (sendFrame_due here due)
    exact ⟨_, _, step_placeFrame_chip hm hdecode, here, rfl, due, _, completes⟩

end Sys2Proof.Machine
end
